-- ==== Sys2Proof/Word.lean ====
section
/-! DEFINITION. The machine's one word type: a memory cell, an instruction word, a parameter word, an ALU operand or
result and a port value are all signed 32-bit integers (00_scope.md R5, R6; 20_memory.md R31). -/

namespace Sys2Proof

/-- An `int32`, held as its 32-bit two's-complement image (PRESUMED, log entry 1: 20_memory.md R31 takes two's complement
from general knowledge; safe, since every rule is stated on the signed value). -/
abbrev Word := BitVec 32

/-- `wrap32(z)` of 00_scope.md R6: the unique `int32` congruent to `z` modulo 2^32. -/
def wrap32 (z : Int) : Word := BitVec.ofInt 32 z

end Sys2Proof
end

