-- ==== Sys2Proof/Config.lean ====
section
/-! DEFINITION. The parameters of 00_scope.md R5 that are fixed for the machine. LEN, the image and the port answers differ
from run to run: they stand in State (log entries 3 and 4). No rule leaves a value of an instruction's result open, so there is no
free value here. -/

namespace Sys2Proof

/-- The largest admitted LEN, `INT_MAX` (10_state.md R20). -/
abbrev Config.maxLen : Nat := 2147483647

/-- The largest number of mode digits of a valid instruction word (30_encoding.md R58). -/
abbrev Config.maxModeDigits : Nat := 8

/-- A port's native failure reason: opaque, only stored and returned by the core (00_scope.md R5, 60_exceptions.md R144).
DESIGN CHOICE (log entry 7): an uninterpreted token; nothing in the model looks inside it. -/
structure IoReason where
  token : Nat
  deriving DecidableEq, Repr

end Sys2Proof
end

