-- ==== Sys2Proof/Syntax.lean ====
section
/-! DEFINITION. The instructions: what 30_encoding.md R52 calls the result of `Decode`, an opcode tag and an ordered list of
parameter modes. Parameter words are no part of it: they are cells of Memory, fetched one by one while the instruction
executes (40_cycle_and_operands.md R75, R78). -/

namespace Sys2Proof

/-- The two parameter modes, mode digits 0 and 1 (30_encoding.md R55). -/
inductive ParamMode where
  /-- Digit 0: the operand value is an address to dereference. -/
  | position
  /-- Digit 1: the operand value is the literal. -/
  | immediate
  deriving DecidableEq, Repr

/-- The two parameter kinds of 30_encoding.md R60. -/
inductive ParamKind where
  /-- R: a read-parameter, resolved through its mode. -/
  | read
  /-- W: a write-address parameter, whose mode digit is ignored. -/
  | write
  deriving DecidableEq, Repr

/-- One constructor per row of the opcode table; `modes` is the decoded mode list, parameter 0 first (30_encoding.md R52, R54). -/
inductive Instr where
  | add (modes : List ParamMode)
  | mul (modes : List ParamMode)
  | input (modes : List ParamMode)
  | output (modes : List ParamMode)
  | jumpIfTrue (modes : List ParamMode)
  | jumpIfFalse (modes : List ParamMode)
  | less (modes : List ParamMode)
  | equal (modes : List ParamMode)
  | halt (modes : List ParamMode)
  deriving DecidableEq, Repr

/-- The decoded mode list of an instruction. -/
def Instr.modes : Instr → List ParamMode
  | .add ms => ms
  | .mul ms => ms
  | .input ms => ms
  | .output ms => ms
  | .jumpIfTrue ms => ms
  | .jumpIfFalse ms => ms
  | .less ms => ms
  | .equal ms => ms
  | .halt ms => ms

/-- The parameter signature of each opcode (30_encoding.md R60). -/
def Instr.params : Instr → List ParamKind
  | .add _ => [.read, .read, .write]
  | .mul _ => [.read, .read, .write]
  | .input _ => [.write]
  | .output _ => [.read]
  | .jumpIfTrue _ => [.read, .read]
  | .jumpIfFalse _ => [.read, .read]
  | .less _ => [.read, .read, .write]
  | .equal _ => [.read, .read, .write]
  | .halt _ => []

/-- The length of an instruction in cells, the instruction word and one cell per parameter (30_encoding.md R50, R63). -/
def Instr.lengthCells (i : Instr) : Nat := 1 + i.params.length

end Sys2Proof
end

