-- ==== Sys2Proof/WellFormed.lean ====
section
/-! DEFINITION. Which terms of `Instr` are decoded instructions: those whose mode list some instruction word has
(30_encoding.md R56, R58). -/

namespace Sys2Proof

/-- A mode list has at most 8 entries (30_encoding.md R58). -/
def modesFit (ms : List ParamMode) : Bool := decide (ms.length ≤ Config.maxModeDigits)

/-- A non-empty mode list ends in Immediate, since its last digit is the most significant one and not zero (30_encoding.md R56). -/
def modesEndImmediate (ms : List ParamMode) : Bool := ms.getLast? != some ParamMode.position

/-- The instruction is the reading of some word: one of the 2304 of 30_encoding.md R58. -/
def Instr.wellFormed (i : Instr) : Bool := modesFit i.modes && modesEndImmediate i.modes

end Sys2Proof
end

