-- ==== Sys2Proof/Decode.lean ====
section
/-! DEFINITION. The instruction_decoder of 30_encoding.md and, after it, the encoder of its R64. Both work on decimal digits:
no field of an instruction word is a bit field (30_encoding.md R51). -/

namespace Sys2Proof

/-- Why a word does not decode (30_encoding.md R52, R62). -/
inductive DecodeFailure where
  /-- The word is negative (R53). -/
  | negativeWord
  /-- `w mod 100` is not one of the nine opcodes (R54). -/
  | badOpcode
  /-- Some digit of `w div 100` is 2 to 9 (R55). -/
  | badMode
  deriving DecidableEq, Repr

/-- `digit(q, i)` of 00_scope.md R6: the decimal digit of `q` at position `i`. -/
def digit (q i : Nat) : Nat := q / 10 ^ i % 10

/-- The opcode table by number: the constructor that `w mod 100` selects (30_encoding.md R54). -/
def opcodeOf : Nat → Option (List ParamMode → Instr)
  | 1 => some .add
  | 2 => some .mul
  | 3 => some .input
  | 4 => some .output
  | 5 => some .jumpIfTrue
  | 6 => some .jumpIfFalse
  | 7 => some .less
  | 8 => some .equal
  | 99 => some .halt
  | _ => none

/-- The mode of one decimal digit (30_encoding.md R55). -/
def modeOfDigit : Nat → Option ParamMode
  | 0 => some .position
  | 1 => some .immediate
  | _ => none

/-- The loop of 30_encoding.md R52 over the digits of `w div 100`, least significant first; `none` is BadMode. `fuel` bounds
the number of digits. -/
def modesOfDigits : (fuel : Nat) → (q : Nat) → Option (List ParamMode)
  | 0, _ => some []
  | fuel + 1, q =>
    if q = 0 then some []
    else
      match modeOfDigit (q % 10) with
      | none => none
      | some m => (modesOfDigits fuel (q / 10)).map (m :: ·)

/-- `Decode(w)` of 30_encoding.md R52: negative word first, then the opcode, then the mode digits. The fuel is the most digits
that `w div 100` can have (R58). -/
def decode (w : Word) : Except DecodeFailure Instr :=
  if w.toInt < 0 then .error .negativeWord
  else
    match opcodeOf (w.toNat % 100) with
    | none => .error .badOpcode
    | some op =>
      match modesOfDigits Config.maxModeDigits (w.toNat / 100) with
      | none => .error .badMode
      | some ms => .ok (op ms)

/-- The opcode number of each tag (30_encoding.md R54). -/
def Instr.opNumber : Instr → Nat
  | .add _ => 1
  | .mul _ => 2
  | .input _ => 3
  | .output _ => 4
  | .jumpIfTrue _ => 5
  | .jumpIfFalse _ => 6
  | .less _ => 7
  | .equal _ => 8
  | .halt _ => 99

/-- The mode digit of a mode (30_encoding.md R55). -/
def ParamMode.digitValue : ParamMode → Nat
  | .position => 0
  | .immediate => 1

/-- The number whose decimal digits, least significant first, are the mode digits of a list (30_encoding.md R64). -/
def modesValue : List ParamMode → Nat
  | [] => 0
  | m :: ms => m.digitValue + 10 * modesValue ms

/-- The value of the instruction word: `opnum + 100 * (m0 + 10 * m1 + ...)` (30_encoding.md R64). -/
def Instr.wordValue (i : Instr) : Nat := i.opNumber + 100 * modesValue i.modes

/-- The instruction word of a well-formed instruction. -/
def encode (i : Instr) : Word := BitVec.ofNat 32 i.wordValue

/-- The cells of a whole instruction: its word, then its parameter words in order (30_encoding.md R50, R64). -/
def assemble (i : Instr) (params : List Word) : List Word := encode i :: params

/-- The `k`-th cell of the instruction whose bits are `w` in the opcode table's numbering: bit 0 is the least significant bit of
the first word, a later word's bits count on from it; the bits from `nbits` on are 0. -/
def tableCell (nbits w k : Nat) : Word := BitVec.ofNat 32 ((w % 2 ^ nbits) >>> (32 * k))

/-- What the decoder reads from such an instruction: the first cell alone decides (30_encoding.md R59, R63). -/
def decodeTableWord (nbits w : Nat) : Option Instr :=
  match decode (tableCell nbits w 0) with
  | .ok i => some i
  | .error _ => none

end Sys2Proof
end

