-- ==== Sys2Proof/Machine/State.lean ====
section
/-! DEFINITION. The state of one core instance: every element of 10_state.md R10, the in-flight port call of its R24, and the
model's own record of the environment (the ports' answers and the histories of 42_io.md R104). Plain data throughout. -/

namespace Sys2Proof.Machine

/-- The three run states (10_state.md R16). -/
inductive RunState where
  | running
  | halted
  | failed
  deriving DecidableEq, Repr

/-- Why the run is Halted (10_state.md R17). -/
inductive HaltCause where
  | none
  | explicitHalt
  | ranOffEnd
  deriving DecidableEq, Repr

/-- `ERR_KIND` (10_state.md R19). -/
inductive ErrKind where
  | none
  | decode
  | addressing
  | ioPort
  deriving DecidableEq, Repr

/-- `ERR_SUB` (10_state.md R19): the sub-causes of the three kinds, and "otherwise 0". -/
inductive ErrSub where
  | none
  | negativeWord
  | badOpcode
  | badMode
  | negativeAddress
  | outOfBounds
  | inputPort
  | outputPort
  deriving DecidableEq, Repr

/-- `ERR_ROLE` (10_state.md R19): what an offending address was for, and "otherwise 0". -/
inductive ErrRole where
  | none
  | operandFetch
  | readDeref
  | writeDest
  | jumpTarget
  deriving DecidableEq, Repr

/-- The diagnostic snapshot `DIAG_VALID`, `DIAG_ADDR`, `DIAG_WORD` (10_state.md R18). -/
structure Snapshot where
  valid : Bool
  addr  : Nat
  word  : Word
  deriving DecidableEq, Repr

/-- The failure record `ERR_*` (10_state.md R19). -/
structure FailureRecord where
  kind       : ErrKind
  sub        : ErrSub
  role       : ErrRole
  param      : Nat
  valueValid : Bool
  value      : Word
  ioReason   : Option IoReason
  deriving DecidableEq, Repr

/-- The sub-causes of an Addressing failure (60_exceptions.md R141). -/
inductive AddressSub where
  | negativeAddress
  | outOfBounds
  deriving DecidableEq, Repr

/-- The roles of an offending address (60_exceptions.md R141). -/
inductive AddressRole where
  | operandFetch
  | readDeref
  | writeDest
  | jumpTarget
  deriving DecidableEq, Repr

/-- What is raised: one constructor per kind and port, with exactly what 60_exceptions.md R142 to R144 let it carry. -/
inductive Failure where
  /-- The instruction word `w` does not decode (R142). -/
  | decode (sub : DecodeFailure) (w : Word)
  /-- An address of parameter `param` fails its check; `value` is the offending address (R143). -/
  | addressing (sub : AddressSub) (role : AddressRole) (param : Nat) (value : Word)
  /-- The input port answered `Fail(r)` (R144). -/
  | inputPort (r : IoReason)
  /-- The output port answered `Fail(r)` to the push of `v` (R144). -/
  | outputPort (v : Word) (r : IoReason)
  deriving DecidableEq, Repr

/-- One answer of the input port to one pull (42_io.md R100). -/
inductive PullAnswer where
  | ok (v : Word)
  | fail (r : IoReason)
  deriving DecidableEq, Repr

/-- One answer of the output port to one push (42_io.md R101). -/
inductive PushAnswer where
  | ok
  | fail (r : IoReason)
  deriving DecidableEq, Repr

/-- A port call the engine has made and the port has not answered yet (10_state.md R24, 42_io.md R105). -/
inductive PortCall where
  /-- A pull whose value goes to the already checked cell `dst`. -/
  | pull (dst : Nat)
  /-- A push of `v`. -/
  | push (v : Word)
  deriving DecidableEq, Repr

/-- The input port as the core meets it: the answers still to come, the next first, and the history of the values pulled
(42_io.md R100, R104). DESIGN CHOICE (log entries 4 and 8). -/
structure InputPort where
  answers : List PullAnswer
  pulled  : List Word
  deriving DecidableEq, Repr

/-- The output port as the core meets it: the answers still to come, the next first, and the history of the values pushed
with `Ok` (42_io.md R101, R104). DESIGN CHOICE (log entries 4 and 8). -/
structure OutputPort where
  answers : List PushAnswer
  pushed  : List Word
  deriving DecidableEq, Repr

/-- Memory as (cell address, cell) pairs, addresses strictly rising, no cell equal to `Memory.unlisted`. DESIGN CHOICE (log
entry 2): the unit is the spec's own, the 32-bit cell (20_memory.md R30, R35). -/
abbrev Memory := List (Nat × Word)

/-- The state of one core instance and its run. -/
structure State where
  /-- `LEN`, the number of cells (10_state.md R20). -/
  len       : Nat
  /-- `M[0 .. LEN-1]` (20_memory.md R30). -/
  mem       : Memory
  /-- The program counter (10_state.md R12). -/
  pc        : Nat
  /-- `run_state` (10_state.md R16). -/
  runState  : RunState
  /-- `halt_cause` (10_state.md R17). -/
  haltCause : HaltCause
  /-- `DIAG_*` (10_state.md R18). -/
  diag      : Snapshot
  /-- `ERR_*` (10_state.md R19). -/
  err       : FailureRecord
  /-- The in-flight port call (10_state.md R24). -/
  portCall  : Option PortCall
  /-- The input port (42_io.md R100). -/
  input     : InputPort
  /-- The output port (42_io.md R101). -/
  output    : OutputPort
  deriving DecidableEq, Repr

/-- Why a step is no step. Neither is a failure of the spec: those are next states with `runState` Failed. -/
inductive Fault where
  /-- Raised by `step` alone, in a state whose run is Halted: "terminal: no cycle starts" (10_state.md R16). Safe: no claim about a
  next state can be proved of it. -/
  | runHalted
  /-- Raised by `step` alone, in a state whose run is Failed: terminal, no cycle starts (10_state.md R16, 60_exceptions.md R149).
  Safe, as above. -/
  | runFailed
  deriving DecidableEq, Repr

/-- Why the model gives no meaning. -/
inductive Refusal where
  /-- Raised by an arm of `exec` whose instruction has no meaning yet; no arm does. Safe: nothing is claimed of such a step. -/
  | notModelled (mnemonic : String)
  deriving DecidableEq, Repr

/-- What a step or an instruction answers. -/
abbrev Result := Host.Outcome State Fault Refusal

/-- The failure record in Running and Halted: every field 0 or none (10_state.md R19, R25). -/
def FailureRecord.empty : FailureRecord :=
  { kind := .none, sub := .none, role := .none, param := 0, valueValid := false, value := 0, ioReason := none }

/-- The machine right after reset, with no image supplied yet: every element at the value of 10_state.md R25, and LEN = 0, the
length of the empty image (DESIGN CHOICE, log entry 3; `State.load` is reset with an image). The ports have given no answers
(DESIGN CHOICE, log entry 4). -/
def State.reset : State :=
  { len := 0
    mem := []
    pc := 0
    runState := .running
    haltCause := .none
    diag := { valid := false, addr := 0, word := 0 }
    err := .empty
    portCall := none
    input := { answers := [], pulled := [] }
    output := { answers := [], pushed := [] } }

end Sys2Proof.Machine
end

