-- ==== Sys2Proof/Machine/Ops.lean ====
section
/-! DEFINITION. The named operations over Memory, the program counter and the status registers, failure entry
(60_exceptions.md R147) and the two port calls (42_io.md R100, R101). Every meaning is built from these. There is no return from a
failure to model beside its entry (60_exceptions.md R149). -/

namespace Sys2Proof.Machine

/-- What an address that is not listed reads as. DESIGN CHOICE (log entry 2): the cells of a loaded image that hold 0 are the
ones not listed; no cell is without a value (20_memory.md R31). -/
def Memory.unlisted : Word := 0

/-- `M[a]` (20_memory.md R32). -/
def Memory.read : Memory → Nat → Word
  | [], _ => Memory.unlisted
  | (b, v) :: rest, a => if a = b then v else Memory.read rest a

/-- Memory with `M[a] = v` and every other cell as before (20_memory.md R33), kept in canonical form. -/
def Memory.write : Memory → Nat → Word → Memory
  | [], a, v => if v = Memory.unlisted then [] else [(a, v)]
  | (b, u) :: rest, a, v =>
    if a < b then (if v = Memory.unlisted then (b, u) :: rest else (a, v) :: (b, u) :: rest)
    else if a = b then (if v = Memory.unlisted then rest else (a, v) :: rest)
    else (b, u) :: Memory.write rest a v

/-- The canonical form: addresses strictly rising, no cell equal to `Memory.unlisted`. -/
def Memory.wf : Memory → Bool
  | [] => true
  | (a, v) :: rest => decide (v ≠ Memory.unlisted) && rest.all (fun c => decide (a < c.1)) && Memory.wf rest

/-- Every listed cell exists: its address is below `len` (20_memory.md R38). -/
def Memory.below (len : Nat) (m : Memory) : Bool := m.all (fun c => decide (c.1 < len))

/-- Memory with the words of `img` in the cells from `a` on. -/
def Memory.writeList (m : Memory) (a : Nat) : List Word → Memory
  | [] => m
  | v :: vs => Memory.writeList (m.write a v) (a + 1) vs

/-- `MemRead(a, 1)` (20_memory.md R32). -/
def State.readCell (s : State) (a : Nat) : Word := s.mem.read a

/-- `MemWrite(a, 1, v)` (20_memory.md R33). -/
def State.writeCell (s : State) (a : Nat) (v : Word) : State := { s with mem := s.mem.write a v }

/-- `pc <- n` (10_state.md R12). -/
def State.setPc (s : State) (n : Nat) : State := { s with pc := n }

/-- Step 1 of a cycle: the snapshot of the instruction address and word (40_cycle_and_operands.md R72). -/
def State.snapshot (s : State) (ia : Nat) (w : Word) : State :=
  { s with diag := { valid := true, addr := ia, word := w } }

/-- The end of the run as a success, with its cause (10_state.md R17). -/
def State.haltWith (s : State) (c : HaltCause) : State := { s with runState := .halted, haltCause := c }

/-- The engine is inside the port call `c` (10_state.md R24, 42_io.md R105). -/
def State.awaitPort (s : State) (c : PortCall) : State := { s with portCall := some c }

/-- The outstanding pull is answered: the answers `rest` are still to come, the call is over, `got` joins the history of values
pulled (42_io.md R104). -/
def State.pullAnswered (s : State) (rest : List PullAnswer) (got : List Word) : State :=
  { s with portCall := none, input := { answers := rest, pulled := s.input.pulled ++ got } }

/-- The outstanding push is answered: the answers `rest` are still to come, the call is over, `put` joins the history of values
pushed (42_io.md R101, R104). -/
def State.pushAnswered (s : State) (rest : List PushAnswer) (put : List Word) : State :=
  { s with portCall := none, output := { answers := rest, pushed := s.output.pushed ++ put } }

/-- `ERR_SUB` of a decode failure (60_exceptions.md R141). -/
def subOfDecode : DecodeFailure → ErrSub
  | .negativeWord => .negativeWord
  | .badOpcode => .badOpcode
  | .badMode => .badMode

/-- `ERR_SUB` of an addressing failure (60_exceptions.md R141). -/
def subOfAddress : AddressSub → ErrSub
  | .negativeAddress => .negativeAddress
  | .outOfBounds => .outOfBounds

/-- `ERR_ROLE` of an addressing failure (60_exceptions.md R141). -/
def roleOfAddress : AddressRole → ErrRole
  | .operandFetch => .operandFetch
  | .readDeref => .readDeref
  | .writeDest => .writeDest
  | .jumpTarget => .jumpTarget

/-- The record each failure writes (60_exceptions.md R142 to R144, R147). -/
def recordOf : Failure → FailureRecord
  | .decode sub w =>
    { kind := .decode, sub := subOfDecode sub, role := .none, param := 0, valueValid := true, value := w, ioReason := none }
  | .addressing sub role param value =>
    { kind := .addressing, sub := subOfAddress sub, role := roleOfAddress role, param := param, valueValid := true,
      value := value, ioReason := none }
  | .inputPort r =>
    { kind := .ioPort, sub := .inputPort, role := .none, param := 0, valueValid := false, value := 0, ioReason := some r }
  | .outputPort v r =>
    { kind := .ioPort, sub := .outputPort, role := .none, param := 0, valueValid := true, value := v, ioReason := some r }

/-- Failure entry, the one shared operation of 60_exceptions.md R147: the record and `run_state`, nothing else; `pc`, Memory,
`halt_cause` and the snapshot stay. -/
def State.raise (s : State) (f : Failure) : State := { s with runState := .failed, err := recordOf f }

/-- Go on with a resolved value, or end the cycle with the failure (00_scope.md R7: `raise` is the only early exit). -/
def orRaise {α : Type} (r : Except Failure α) (s : State) (k : α → Result) : Result :=
  match r with
  | .error f => .next (s.raise f)
  | .ok x => k x

/-- The rest of an Input cycle from its pull on: `InPull()` and what follows (42_io.md R100, R102). With no answer to give, the
port leaves the engine waiting inside the call, nothing committed (42_io.md R105; DESIGN CHOICE, log entry 5). -/
def pullInto (dst : Nat) (s : State) : Result :=
  match s.input.answers with
  | [] => .next (s.awaitPort (.pull dst))
  | .fail r :: rest => .next ((s.pullAnswered rest []).raise (.inputPort r))
  | .ok v :: rest => .next (((s.pullAnswered rest [v]).writeCell dst v).setPc (s.pc + 2))

/-- The rest of an Output cycle from its push on: `OutPush(v)` and what follows (42_io.md R101, R103); a failed push is not
delivered (R101). Waiting as for `pullInto`. -/
def pushValue (v : Word) (s : State) : Result :=
  match s.output.answers with
  | [] => .next (s.awaitPort (.push v))
  | .fail r :: rest => .next ((s.pushAnswered rest []).raise (.outputPort v r))
  | .ok :: rest => .next ((s.pushAnswered rest [v]).setPc (s.pc + 2))

/-- A cycle that waits inside a port call goes on with that call (42_io.md R105). -/
def continueCall (c : PortCall) (s : State) : Result :=
  match c with
  | .pull dst => pullInto dst s
  | .push v => pushValue v s

end Sys2Proof.Machine
end

