-- ==== Sys2Proof/Machine/Operands.lean ====
section
/-! DEFINITION. The addressing_mode_resolver (40_cycle_and_operands.md R74 to R78). The instruction address `ia` is `s.pc`, which
keeps its value until the cycle commits (10_state.md R12). -/

namespace Sys2Proof.Machine

/-- `ModeOf(modes, i)` (40_cycle_and_operands.md R74). -/
def modeOf (modes : List ParamMode) (i : Nat) : ParamMode := modes.getD i .position

/-- The address of the cell of parameter `i`, `ia + 1 + i` (30_encoding.md R60). -/
def State.paramAddr (s : State) (i : Nat) : Nat := s.pc + 1 + i

/-- `FetchParam(ia, i)` (40_cycle_and_operands.md R75). -/
def fetchParam (s : State) (i : Nat) : Except Failure Word :=
  if s.len ≤ s.paramAddr i then
    .error (.addressing .outOfBounds .operandFetch i (BitVec.ofNat 32 (s.paramAddr i)))
  else .ok (s.readCell (s.paramAddr i))

/-- The two tests every address word meets, negative first, then the upper bound; on success the cell address
(40_cycle_and_operands.md R76, R77; 43_jumps.md R112). -/
def checkAddr (s : State) (role : AddressRole) (i : Nat) (raw : Word) : Except Failure Nat :=
  if raw.toInt < 0 then .error (.addressing .negativeAddress role i raw)
  else if (s.len : Int) ≤ raw.toInt then .error (.addressing .outOfBounds role i raw)
  else .ok raw.toNat

/-- `ReadParam(ia, modes, i)` (40_cycle_and_operands.md R76). -/
def readParam (s : State) (modes : List ParamMode) (i : Nat) : Except Failure Word :=
  match fetchParam s i with
  | .error f => .error f
  | .ok raw =>
    match modeOf modes i with
    | .immediate => .ok raw
    | .position => (checkAddr s .readDeref i raw).map s.readCell

/-- `WriteAddr(ia, i)`: the mode is not consulted (40_cycle_and_operands.md R77). -/
def writeAddr (s : State) (i : Nat) : Except Failure Nat :=
  match fetchParam s i with
  | .error f => .error f
  | .ok raw => checkAddr s .writeDest i raw

/-- `CheckTarget(b)` of a taken jump: parameter 1 supplied it (43_jumps.md R112). -/
def checkTarget (s : State) (b : Word) : Except Failure Nat := checkAddr s .jumpTarget 1 b

/-- The RRW shape of 30_encoding.md R60: two reads, one destination, one write of `f a b`, `pc <- ia + 4`
(40_cycle_and_operands.md R78, R80). -/
def binaryInto (f : Word → Word → Word) (modes : List ParamMode) (s : State) : Result :=
  orRaise (readParam s modes 0) s fun a =>
    orRaise (readParam s modes 1) s fun b =>
      orRaise (writeAddr s 2) s fun dst =>
        .next ((s.writeCell dst (f a b)).setPc (s.pc + 4))

/-- The RR shape: both parameters are resolved, then the condition decides; the target is checked only when the jump is taken
(43_jumps.md R110 to R112). -/
def jumpWhen (taken : Word → Bool) (modes : List ParamMode) (s : State) : Result :=
  orRaise (readParam s modes 0) s fun a =>
    orRaise (readParam s modes 1) s fun b =>
      if taken a then orRaise (checkTarget s b) s fun n => .next (s.setPc n)
      else .next (s.setPc (s.pc + 3))

end Sys2Proof.Machine
end

