-- ==== Sys2Proof/Machine/Arithmetic.lean ====
section
/-! DEFINITION. Add and Mul (41_arithmetic.md). -/

namespace Sys2Proof.Machine

/-- `add32(a, b)`: the exact signed sum, wrapped (41_arithmetic.md R91; log entry 9). -/
def add32 (a b : Word) : Word := wrap32 (a.toInt + b.toInt)

/-- `mul32(a, b)`: the exact signed product, wrapped (41_arithmetic.md R92; log entry 9). -/
def mul32 (a b : Word) : Word := wrap32 (a.toInt * b.toInt)

/-- Add (41_arithmetic.md R93). -/
def execAdd (modes : List ParamMode) (s : State) : Result := binaryInto add32 modes s

/-- Mul (41_arithmetic.md R94). -/
def execMul (modes : List ParamMode) (s : State) : Result := binaryInto mul32 modes s

end Sys2Proof.Machine
end

