-- ==== Sys2Proof/Machine/Flags.lean ====
section
/-! DEFINITION. The machine has no status flags (10_state.md R15, 41_arithmetic.md R95), so there is no flag computation. What other
machines keep in flags is here a word in a cell (the ALU's comparisons, 44_compare.md R120) or a test of an operand (the
conditions of the two jumps, 43_jumps.md R110, R111). -/

namespace Sys2Proof.Machine

/-- `lt32(a, b)`: the signed, exact comparison as 1 or 0 (44_compare.md R120). -/
def lt32 (a b : Word) : Word := if a.toInt < b.toInt then 1 else 0

/-- `eq32(a, b)`: equality as 1 or 0 (44_compare.md R120). -/
def eq32 (a b : Word) : Word := if a = b then 1 else 0

/-- The condition of JumpIfTrue: any non-zero word (43_jumps.md R110). -/
def condTrue (a : Word) : Bool := decide (a ≠ 0)

/-- The condition of JumpIfFalse: exactly 0 (43_jumps.md R111). -/
def condFalse (a : Word) : Bool := decide (a = 0)

end Sys2Proof.Machine
end

