-- ==== Sys2Proof/Machine/Compare.lean ====
section
/-! DEFINITION. Less and Equal (44_compare.md). -/

namespace Sys2Proof.Machine

/-- Less (44_compare.md R121). -/
def execLess (modes : List ParamMode) (s : State) : Result := binaryInto lt32 modes s

/-- Equal (44_compare.md R122). -/
def execEqual (modes : List ParamMode) (s : State) : Result := binaryInto eq32 modes s

end Sys2Proof.Machine
end

