-- ==== Sys2Proof/Machine/HaltFamily.lean ====
section
/-! DEFINITION. Halt (45_halt.md). -/

namespace Sys2Proof.Machine

/-- Halt: mode digits are unused, `pc <- ia + 1` (45_halt.md R130). -/
def execHalt (_modes : List ParamMode) (s : State) : Result := .next ((s.haltWith .explicitHalt).setPc (s.pc + 1))

end Sys2Proof.Machine
end

