-- ==== Sys2Proof/Machine/InOut.lean ====
section
/-! DEFINITION. Input and Output (42_io.md). -/

namespace Sys2Proof.Machine

/-- Input: the destination is checked before the pull, its mode digit is ignored (42_io.md R102). -/
def execInput (_modes : List ParamMode) (s : State) : Result :=
  orRaise (writeAddr s 0) s fun dst => pullInto dst s

/-- Output (42_io.md R103). -/
def execOutput (modes : List ParamMode) (s : State) : Result :=
  orRaise (readParam s modes 0) s fun a => pushValue a s

end Sys2Proof.Machine
end

