-- ==== Sys2Proof/Machine/Jumps.lean ====
section
/-! DEFINITION. JumpIfTrue and JumpIfFalse (43_jumps.md). -/

namespace Sys2Proof.Machine

/-- JumpIfTrue (43_jumps.md R110). -/
def execJumpIfTrue (modes : List ParamMode) (s : State) : Result := jumpWhen condTrue modes s

/-- JumpIfFalse (43_jumps.md R111). -/
def execJumpIfFalse (modes : List ParamMode) (s : State) : Result := jumpWhen condFalse modes s

end Sys2Proof.Machine
end

