-- ==== Sys2Proof/Machine/Dispatch.lean ====
section
/-! DEFINITION. The dispatch table of 40_cycle_and_operands.md R81, one arm per opcode tag. -/

namespace Sys2Proof.Machine

def exec (i : Instr) (s : State) : Host.Outcome State Fault Refusal :=
  match i with
  | .add modes => Sys2Proof.Machine.execAdd modes s
  | .mul modes => Sys2Proof.Machine.execMul modes s
  | .input modes => Sys2Proof.Machine.execInput modes s
  | .output modes => Sys2Proof.Machine.execOutput modes s
  | .jumpIfTrue modes => Sys2Proof.Machine.execJumpIfTrue modes s
  | .jumpIfFalse modes => Sys2Proof.Machine.execJumpIfFalse modes s
  | .less modes => Sys2Proof.Machine.execLess modes s
  | .equal modes => Sys2Proof.Machine.execEqual modes s
  | .halt modes => Sys2Proof.Machine.execHalt modes s

end Sys2Proof.Machine
end

