-- ==== Sys2Proof/Machine/Cycle.lean ====
section
/-! DEFINITION. The engine's cycle (40_cycle_and_operands.md R70 to R73) and where an instruction is placed for the next fetch. -/

namespace Sys2Proof.Machine

/-- The instruction word of the cycle, `M[ia]` (40_cycle_and_operands.md R70). -/
def State.fetchWord (s : State) : Word := s.readCell s.pc

/-- `Cycle()` of 40_cycle_and_operands.md R70: the terminating check (R71); else fetch, snapshot (R72), decode, a decode failure
(R73) or the handler of the opcode (R81). -/
def runCycle (s : State) : Result :=
  if s.len ≤ s.pc then .next (s.haltWith .ranOffEnd)
  else
    match decode s.fetchWord with
    | .error sub => .next ((s.snapshot s.pc s.fetchWord).raise (.decode sub s.fetchWord))
    | .ok i => exec i (s.snapshot s.pc s.fetchWord)

/-- One move of the engine: no cycle starts in a terminal state (10_state.md R16; log entry 6); a cycle that waits inside a port
call goes on with it (42_io.md R105); otherwise a cycle. -/
def engineMove (s : State) : Result :=
  match s.runState with
  | .halted => .fault .runHalted
  | .failed => .fault .runFailed
  | .running =>
    match s.portCall with
    | some c => continueCall c s
    | none => runCycle s

/-- The four cells of the longest instruction, from the opcode table's bit numbering. -/
def tableCells (nbits w : Nat) : List Word :=
  [tableCell nbits w 0, tableCell nbits w 1, tableCell nbits w 2, tableCell nbits w 3]

/-- `s` with that instruction in the four cells from `pc` on. It stands for the host's load (log entry 3), so Memory is made long
enough to hold the cells, and the engine is Running and inside no port call, so that the very next move fetches it. -/
def State.placeTableWord (s : State) (nbits w : Nat) : State :=
  { s with
    len := max s.len (s.pc + 4)
    mem := s.mem.writeList s.pc (tableCells nbits w)
    runState := .running
    portCall := none }

end Sys2Proof.Machine
end

