-- ==== Sys2Proof/Machine/Step.lean ====
section
/-! DEFINITION. The machine's step and the host's hook for placing one instruction; both only call Machine/Cycle.lean. -/

namespace Sys2Proof.Machine

/-- One step: a cycle of the engine, or one move of a cycle that waits for a port (40_cycle_and_operands.md R70, 42_io.md R105). -/
def step (s : State) : Host.Outcome State Fault Refusal := engineMove s

/-- `s` with the instruction whose bits are `w` where `step` fetches next (log entry 3). -/
def State.withFetchWord (s : State) (nbits w : Nat) : State := s.placeTableWord nbits w

end Sys2Proof.Machine
end

