-- ==== Sys2Proof/Machine/Environment.lean ====
section
/-! DEFINITION. The host and the ports as the machine meets them: reset with an image (70_reset_and_hazards.md R170, R171), an answer
that comes later (42_io.md R105), and what the host reads after the run (10_state.md R26, 60_exceptions.md R159,
70_reset_and_hazards.md R177). -/

namespace Sys2Proof.Machine

/-- Reset with the image `img` and the ports' answers (70_reset_and_hazards.md R170, R171); `none` for an image longer than LEN
may be (10_state.md R20). Nothing of an earlier run enters (R178). -/
def State.load (img : List Word) (pulls : List PullAnswer) (pushes : List PushAnswer) : Option State :=
  if img.length ≤ Config.maxLen then
    some { State.reset with
      len := img.length
      mem := Memory.writeList [] 0 img
      input := { answers := pulls, pulled := [] }
      output := { answers := pushes, pushed := [] } }
  else none

/-- The input port comes to have one more answer (42_io.md R100; log entry 4). -/
def State.offerPull (s : State) (a : PullAnswer) : State :=
  { s with input := { s.input with answers := s.input.answers ++ [a] } }

/-- The output port comes to have one more answer (42_io.md R101; log entry 4). -/
def State.offerPush (s : State) (a : PushAnswer) : State :=
  { s with output := { s.output with answers := s.output.answers ++ [a] } }

/-- The codes of `run_state` (10_state.md R16). -/
def RunState.code : RunState → Nat
  | .running => 0
  | .halted => 1
  | .failed => 2

/-- The codes of `halt_cause` (10_state.md R17). -/
def HaltCause.code : HaltCause → Nat
  | .none => 0
  | .explicitHalt => 1
  | .ranOffEnd => 2

/-- The codes of `ERR_KIND` (10_state.md R19). -/
def ErrKind.code : ErrKind → Nat
  | .none => 0
  | .decode => 1
  | .addressing => 2
  | .ioPort => 3

/-- The codes of `ERR_SUB`, counted within each kind (10_state.md R19). -/
def ErrSub.code : ErrSub → Nat
  | .none => 0
  | .negativeWord => 1
  | .badOpcode => 2
  | .badMode => 3
  | .negativeAddress => 1
  | .outOfBounds => 2
  | .inputPort => 1
  | .outputPort => 2

/-- The codes of `ERR_ROLE` (10_state.md R19). -/
def ErrRole.code : ErrRole → Nat
  | .none => 0
  | .operandFetch => 1
  | .readDeref => 2
  | .writeDest => 3
  | .jumpTarget => 4

/-- What a status register reads as: a code, bit or address; an `int32`; or a port's reason. -/
inductive StatusValue where
  | number (n : Nat)
  | word (w : Word)
  | reason (r : Option IoReason)
  deriving DecidableEq, Repr

/-- The run has ended (70_reset_and_hazards.md R176). -/
def State.ended (s : State) : Bool := s.runState != .running

/-- The status registers S0 to S12 by number (10_state.md R26). -/
def State.statusRegister (s : State) : Nat → Option StatusValue
  | 0 => some (.number s.runState.code)
  | 1 => some (.number s.haltCause.code)
  | 2 => some (.number s.pc)
  | 3 => some (.number s.diag.valid.toNat)
  | 4 => some (.number s.diag.addr)
  | 5 => some (.word s.diag.word)
  | 6 => some (.number s.err.kind.code)
  | 7 => some (.number s.err.sub.code)
  | 8 => some (.number s.err.role.code)
  | 9 => some (.number s.err.param)
  | 10 => some (.number s.err.valueValid.toNat)
  | 11 => some (.word s.err.value)
  | 12 => some (.reason s.err.ioReason)
  | _ => none

/-- The host reads status register `n`: only after the run has ended (70_reset_and_hazards.md R177). -/
def State.readStatus (s : State) (n : Nat) : Option StatusValue := if s.ended then s.statusRegister n else none

/-- The host reads cell `a` of Memory: only after the run has ended, and only a cell that exists (20_memory.md R45). -/
def State.hostReadCell (s : State) (a : Nat) : Option Word :=
  if s.ended && decide (a < s.len) then some (s.readCell a) else none

/-- The result of a run (60_exceptions.md R159). -/
inductive RunResult where
  | success
  | failure (record : FailureRecord) (snapshot : Snapshot)
  deriving DecidableEq, Repr

/-- The result the host sees; none while Running (60_exceptions.md R159). -/
def State.runResult (s : State) : Option RunResult :=
  match s.runState with
  | .running => none
  | .halted => some .success
  | .failed => some (.failure s.err s.diag)

end Sys2Proof.Machine
end

