-- ==== Sys2Proof/Safety.lean ====
section
/-! DEFINITION. The terms claims are made in: how an operand resolves, said as the spec's conditions and not through the resolver;
which failure an instruction reports first; the invariant of a run; which states differ in diagnostics only. -/

namespace Sys2Proof.Machine

/-- A safe run is one that never reaches Failed (10_state.md R16). -/
def State.safe (s : State) : Prop := s.runState ≠ .failed

/-- The cell of parameter `i` exists (40_cycle_and_operands.md R75). -/
def State.paramPresent (s : State) (i : Nat) : Prop := s.pc + 1 + i < s.len

/-- `raw_i`, the parameter word of parameter `i` (30_encoding.md R60). -/
def State.paramWord (s : State) (i : Nat) : Word := s.readCell (s.pc + 1 + i)

/-- The word is the address of a cell: `0 <= w < LEN` (20_memory.md R38). -/
def State.isAddress (s : State) (w : Word) : Prop := 0 ≤ w.toInt ∧ w.toInt < s.len

/-- Parameter `i` resolves to the value `v` (40_cycle_and_operands.md R75, R76). -/
def ReadsAs (s : State) (modes : List ParamMode) (i : Nat) (v : Word) : Prop :=
  s.paramPresent i ∧
    ((modeOf modes i = .immediate ∧ v = s.paramWord i) ∨
     (modeOf modes i = .position ∧ s.isAddress (s.paramWord i) ∧ v = s.readCell (s.paramWord i).toNat))

/-- The resolution of read-parameter `i` fails with `f` (40_cycle_and_operands.md R75, R76). -/
def ReadFails (s : State) (modes : List ParamMode) (i : Nat) (f : Failure) : Prop :=
  (¬ s.paramPresent i ∧ f = .addressing .outOfBounds .operandFetch i (BitVec.ofNat 32 (s.pc + 1 + i))) ∨
  (s.paramPresent i ∧ modeOf modes i = .position ∧ (s.paramWord i).toInt < 0 ∧
    f = .addressing .negativeAddress .readDeref i (s.paramWord i)) ∨
  (s.paramPresent i ∧ modeOf modes i = .position ∧ (s.len : Int) ≤ (s.paramWord i).toInt ∧
    f = .addressing .outOfBounds .readDeref i (s.paramWord i))

/-- Write-address parameter `i` gives the destination `d` (40_cycle_and_operands.md R77). -/
def WritesTo (s : State) (i d : Nat) : Prop :=
  s.paramPresent i ∧ s.isAddress (s.paramWord i) ∧ (d : Int) = (s.paramWord i).toInt

/-- The resolution of write-address parameter `i` fails with `f` (40_cycle_and_operands.md R75, R77). -/
def WriteFails (s : State) (i : Nat) (f : Failure) : Prop :=
  (¬ s.paramPresent i ∧ f = .addressing .outOfBounds .operandFetch i (BitVec.ofNat 32 (s.pc + 1 + i))) ∨
  (s.paramPresent i ∧ (s.paramWord i).toInt < 0 ∧ f = .addressing .negativeAddress .writeDest i (s.paramWord i)) ∨
  (s.paramPresent i ∧ (s.len : Int) ≤ (s.paramWord i).toInt ∧
    f = .addressing .outOfBounds .writeDest i (s.paramWord i))

/-- The first failure of the two read-parameters (60_exceptions.md R145: F(0), N(0), O(0), F(1), N(1), O(1)). -/
def TwoReadsFail (s : State) (modes : List ParamMode) (f : Failure) : Prop :=
  ReadFails s modes 0 f ∨ ((∃ a, ReadsAs s modes 0 a) ∧ ReadFails s modes 1 f)

/-- The first failure of the format RRW (60_exceptions.md R145: then F(2), WN(2), WO(2)). -/
def RrwFails (s : State) (modes : List ParamMode) (f : Failure) : Prop :=
  TwoReadsFail s modes f ∨ ((∃ a, ReadsAs s modes 0 a) ∧ (∃ b, ReadsAs s modes 1 b) ∧ WriteFails s 2 f)

/-- The failure of the target `b` of a taken jump (43_jumps.md R112; 60_exceptions.md R145: TN, TO). -/
def TargetFails (s : State) (b : Word) (f : Failure) : Prop :=
  (b.toInt < 0 ∧ f = .addressing .negativeAddress .jumpTarget 1 b) ∨
  ((s.len : Int) ≤ b.toInt ∧ f = .addressing .outOfBounds .jumpTarget 1 b)

/-- The cycle that starts in `s` fetches and decodes `i` (40_cycle_and_operands.md R70). -/
def State.fetches (s : State) (i : Instr) : Prop := s.pc < s.len ∧ decode s.fetchWord = .ok i

/-- The state a failed cycle leaves, but for the snapshot (60_exceptions.md R147): the record and `run_state`, nothing else. -/
def State.failedWith (s : State) (r : FailureRecord) : State := { s with runState := .failed, err := r }

/-- An instruction word is illegal (30_encoding.md R62): negative, or its two low decimal digits are no opcode, or a decimal digit
of `w div 100` is 2 to 9. -/
def IllegalWord (w : Word) : Prop :=
  w.toInt < 0 ∨ w.toNat % 100 ∉ [1, 2, 3, 4, 5, 6, 7, 8, 99] ∨ ∃ k, 2 ≤ digit (w.toNat / 100) k

/-- What the rules of the format RRW say of an instruction `mk` with opcode number `n` and ALU operation `f` (30_encoding.md R60;
41_arithmetic.md R93, R94; 44_compare.md R121, R122): its encoding, its completion, its first failure, and that there is no
third way. -/
def RrwRule (mk : List ParamMode → Instr) (n : Nat) (f : Word → Word → Word) : Prop :=
  (∀ w modes, decode w = .ok (mk modes) → w.toNat % 100 = n) ∧
  ∀ modes s,
    (mk modes).params = [.read, .read, .write] ∧ (mk modes).lengthCells = 4 ∧
    (∀ a b d, ReadsAs s modes 0 a → ReadsAs s modes 1 b → WritesTo s 2 d →
      exec (mk modes) s = .next { s with mem := s.mem.write d (f a b), pc := s.pc + 4 }) ∧
    (∀ e, RrwFails s modes e → exec (mk modes) s = .next (s.failedWith (recordOf e))) ∧
    ((∃ a b d, ReadsAs s modes 0 a ∧ ReadsAs s modes 1 b ∧ WritesTo s 2 d) ∨ ∃ e, RrwFails s modes e)

/-- What the rules of the format RR say of a jump `mk` with opcode number `n`, taken when `cond` holds of its first operand
(43_jumps.md R110 to R112): its encoding, not taken, taken, and its first failure. -/
def JumpRule (mk : List ParamMode → Instr) (n : Nat) (cond : Word → Prop) : Prop :=
  (∀ w modes, decode w = .ok (mk modes) → w.toNat % 100 = n) ∧
  ∀ modes s,
    (mk modes).params = [.read, .read] ∧ (mk modes).lengthCells = 3 ∧
    (∀ a b, ReadsAs s modes 0 a → ReadsAs s modes 1 b → ¬ cond a →
      exec (mk modes) s = .next { s with pc := s.pc + 3 }) ∧
    (∀ a b, ReadsAs s modes 0 a → ReadsAs s modes 1 b → cond a → s.isAddress b →
      exec (mk modes) s = .next { s with pc := b.toInt.toNat }) ∧
    (∀ e, TwoReadsFail s modes e → exec (mk modes) s = .next (s.failedWith (recordOf e))) ∧
    (∀ a b e, ReadsAs s modes 0 a → ReadsAs s modes 1 b → cond a → TargetFails s b e →
      exec (mk modes) s = .next (s.failedWith (recordOf e)))

/-- `s` with more answers to come from the ports, after those it has. -/
def State.withMore (s : State) (pulls : List PullAnswer) (pushes : List PushAnswer) : State :=
  { s with
    input := { s.input with answers := s.input.answers ++ pulls }
    output := { s.output with answers := s.output.answers ++ pushes } }

/-- What a failure of a run says is true of it (60_exceptions.md R141 to R143): a decode failure names the fetched word and why it
does not decode; an offending address is outside Memory, of a combination R141 lists, and LEN itself for a missing parameter cell. -/
def Failure.truthful (len : Nat) (word : Word) : Failure → Prop
  | .decode sub w => w = word ∧ Sys2Proof.decode word = .error sub
  | .addressing sub role i v =>
    i ≤ 2 ∧ (role = .jumpTarget → i = 1) ∧
      (role = .operandFetch → sub = .outOfBounds ∧ v.toInt = len) ∧
      (sub = .negativeAddress → v.toInt < 0) ∧ (sub = .outOfBounds → (len : Int) ≤ v.toInt)
  | .inputPort _ => True
  | .outputPort _ _ => True

/-- The cell at `pc` holds the instruction whose port call this is, and its parameter resolved to the call's argument
(42_io.md R102, R103, R105). -/
def State.makesCall (s : State) : PortCall → Prop
  | .pull d => ∃ modes, decode s.fetchWord = .ok (.input modes) ∧ WritesTo s 0 d
  | .push v => ∃ modes, decode s.fetchWord = .ok (.output modes) ∧ ReadsAs s modes 0 v

/-- The invariant of a run, from reset on. -/
structure State.Inv (s : State) : Prop where
  /-- Memory has its canonical form. -/
  memWf : s.mem.wf = true
  /-- No cell from LEN on is listed (20_memory.md R38). -/
  memBelow : s.mem.below s.len = true
  /-- LEN is within its bound (10_state.md R20). -/
  lenFits : s.len ≤ Config.maxLen
  /-- `0 <= pc <= LEN` (10_state.md R14). -/
  pcFits : s.pc ≤ s.len
  /-- `halt_cause` is None exactly when the run is not Halted (10_state.md R17). -/
  causeNone : s.haltCause = .none ↔ s.runState ≠ .halted
  /-- The failure record is empty in Running and Halted (10_state.md R19). -/
  recordEmpty : s.runState ≠ .failed → s.err = .empty
  /-- In Failed the snapshot names the failing instruction, which `pc` and Memory still show, and the record is that of one
  truthful failure (60_exceptions.md R142 to R144, R148). -/
  recordTruthful : s.runState = .failed →
    s.pc < s.len ∧ s.diag = { valid := true, addr := s.pc, word := s.fetchWord } ∧
      ∃ f, s.err = recordOf f ∧ f.truthful s.len s.fetchWord
  /-- Before the first instruction cycle the snapshot is as reset left it (10_state.md R18, R25). -/
  snapshotAbsent : s.diag.valid = false → s.diag.addr = 0 ∧ s.diag.word = 0
  /-- The snapshot names a cell of Memory (10_state.md R10, R18). -/
  snapshotInside : s.diag.valid = true → s.diag.addr < s.len
  /-- An outstanding port call belongs to the cycle in progress (10_state.md R24, 42_io.md R105). -/
  callInProgress : ∀ c, s.portCall = some c →
    s.runState = .running ∧ s.diag = { valid := true, addr := s.pc, word := s.fetchWord } ∧ s.makesCall c

/-- Two states that agree on all but the snapshot, the failure record, `halt_cause` and the histories: all that 10_state.md R17
and R18 say the engine never reads. -/
def SameButDiagnostics (s s' : State) : Prop :=
  s.len = s'.len ∧ s.mem = s'.mem ∧ s.pc = s'.pc ∧ s.runState = s'.runState ∧ s.portCall = s'.portCall ∧
    s.input.answers = s'.input.answers ∧ s.output.answers = s'.output.answers

/-- Two results that agree in the same way. -/
def SameResultButDiagnostics : Result → Result → Prop
  | .next t, .next t' => SameButDiagnostics t t'
  | .fault f, .fault f' => f = f'
  | .refused r, .refused r' => r = r'
  | _, _ => False

end Sys2Proof.Machine
end

