-- ==== Sys2Proof/Certificates/Slice0/Obligations.lean ====
section
/-! DEFINITION. The statements for the provers, about this machine as the numbered rules of spec/ give it. A clause that rests on
the spec's own choice ("[decision: D<n>]") or inference ("[derived]"), or on a log entry, is named in the docstring. -/

open Sys2Proof Sys2Proof.Machine

/-! The decoder and the encoder. -/

/-- 30_encoding.md R53: a negative word does not decode, and that is what is said of it, whatever its digits. -/
def Obligations.NegativeWordsFailFirst : Prop :=
  ∀ w : Word, decode w = .error .negativeWord ↔ w.toInt < 0

/-- 30_encoding.md R55: with a valid opcode, each digit of `w div 100` that is 0 gives Position and each that is 1 Immediate, in
order, and any other digit fails the decode with BadMode. -/
def Obligations.ModeDigitsAreZeroOrOne : Prop :=
  ∀ (w : Word) (op : List ParamMode → Instr), 0 ≤ w.toInt → opcodeOf (w.toNat % 100) = some op →
    ((∀ k, digit (w.toNat / 100) k ≤ 1) →
      ∃ ms, decode w = .ok (op ms) ∧ ∀ k m, ms[k]? = some m →
        (digit (w.toNat / 100) k = 0 ∧ m = .position) ∨ (digit (w.toNat / 100) k = 1 ∧ m = .immediate)) ∧
    ((∃ k, 2 ≤ digit (w.toNat / 100) k) → decode w = .error .badMode)

/-- 30_encoding.md section 2 (R51, R56): the decoded list has one entry per digit of `w div 100`, ends in Immediate when it is not
empty (the spec's inference), and the entries it lacks read as Position. -/
def Obligations.ModeListHasOneEntryPerDigit : Prop :=
  ∀ (w : Word) (i : Instr), decode w = .ok i →
    i.modes.length = (Nat.digits 10 (w.toNat / 100)).length ∧
    (i.modes ≠ [] → i.modes.getLast? = some .immediate) ∧
    ∀ k, i.modes.length ≤ k → modeOf i.modes k = .position

/-- 30_encoding.md R62: the words that do not decode are exactly the illegal ones, a cycle that fetches a word raises a Decode
failure exactly when it is illegal, and the mode digit of a W parameter has no effect. -/
def Obligations.IllegalWordsFailExactly : Prop :=
  (∀ w : Word, (∃ sub, decode w = .error sub) ↔ IllegalWord w) ∧
  (∀ s : State, s.runState = .running → s.portCall = none → s.pc < s.len →
    ((∃ t, step s = .next t ∧ t.runState = .failed ∧ t.err.kind = .decode) ↔ IllegalWord s.fetchWord)) ∧
  (∀ (ms ms' : List ParamMode) (s : State), modeOf ms 0 = modeOf ms' 0 → modeOf ms 1 = modeOf ms' 1 →
    exec (.add ms) s = exec (.add ms') s ∧ exec (.mul ms) s = exec (.mul ms') s ∧
    exec (.less ms) s = exec (.less ms') s ∧ exec (.equal ms) s = exec (.equal ms') s) ∧
  (∀ (ms ms' : List ParamMode) (s : State), exec (.input ms) s = exec (.input ms') s)

/-- 30_encoding.md sections 2 and 4: every well-formed instruction, with every mode list its encoding admits, is what its own
word decodes to. -/
def Obligations.EncodedInstructionDecodesBack : Prop :=
  ∀ i : Instr, i.wellFormed = true → decode (encode i) = .ok i

/-- 30_encoding.md sections 2 and 4: a word that decodes is the encoding of the well-formed instruction it decodes to, so no two
words decode alike. -/
def Obligations.DecodedWordEncodesBack : Prop :=
  ∀ (w : Word) (i : Instr), decode w = .ok i → i.wellFormed = true ∧ encode i = w

/-- 30_encoding.md R58 (the spec's inference): exactly 2304 words decode. -/
def Obligations.ExactlyTwentyThreeHundredFourWordsDecode : Prop :=
  ∃ words : List Word, words.Nodup ∧ words.length = 2304 ∧ ∀ w, w ∈ words ↔ ∃ i, decode w = .ok i

/-- 30_encoding.md R54 (its decision D7) and 95_test_vectors.md V1: words written out digit by digit decode to the instructions
they stand for. -/
def Obligations.WordsOfEachOpcodeDecode : Prop :=
  decode 1 = .ok (.add []) ∧ decode 1002 = .ok (.mul [.position, .immediate]) ∧
  decode 103 = .ok (.input [.immediate]) ∧ decode 104 = .ok (.output [.immediate]) ∧
  decode 1105 = .ok (.jumpIfTrue [.immediate, .immediate]) ∧ decode 1106 = .ok (.jumpIfFalse [.immediate, .immediate]) ∧
  decode 1107 = .ok (.less [.immediate, .immediate]) ∧ decode 108 = .ok (.equal [.immediate]) ∧
  decode 99 = .ok (.halt [])

/-- The model's hook (log entry 3) places an instruction where the next step fetches it: the step runs exactly what the decoder
reads from the same bits. -/
def Obligations.PlacedWordIsTheOneRun : Prop :=
  ∀ (s : State) (nbits w : Nat) (i : Instr), s.mem.wf = true → decodeTableWord nbits w = some i →
    step (s.withFetchWord nbits w) = exec i ((s.withFetchWord nbits w).snapshot s.pc (tableCell nbits w 0))

/-! Memory. -/

/-- 20_memory.md R33: a write makes the cell the value and leaves every other cell, and LEN, unchanged. -/
def Obligations.WriteChangesExactlyOneCell : Prop :=
  ∀ (s : State) (a b : Nat) (v : Word), s.mem.wf = true →
    (s.writeCell a v).readCell a = v ∧ (b ≠ a → (s.writeCell a v).readCell b = s.readCell b) ∧
    (s.writeCell a v).len = s.len

/-- The canonical form (log entry 2): two canonical memories that read alike everywhere are equal. -/
def Obligations.MemoriesThatReadAlikeAreEqual : Prop :=
  ∀ m m' : Memory, m.wf = true → m'.wf = true → (∀ a, m.read a = m'.read a) → m = m'

/-- 20_memory.md section 5 (R43, R83; decision D23): what an RRW instruction, and what an Input, stores is what the next cycle
fetches there, while the storing instruction itself used the old values. -/
def Obligations.StoreIsSeenByTheNextFetch : Prop :=
  (∀ (s t : State) (modes : List ParamMode) (a b : Word) (d : Nat), s.mem.wf = true →
    ReadsAs s modes 0 a → ReadsAs s modes 1 b → WritesTo s 2 d →
    (exec (.add modes) s = .next t → t.readCell d = add32 a b ∧ (t.pc = d → t.fetchWord = add32 a b)) ∧
    (exec (.mul modes) s = .next t → t.readCell d = mul32 a b ∧ (t.pc = d → t.fetchWord = mul32 a b)) ∧
    (exec (.less modes) s = .next t → t.readCell d = lt32 a b ∧ (t.pc = d → t.fetchWord = lt32 a b)) ∧
    (exec (.equal modes) s = .next t → t.readCell d = eq32 a b ∧ (t.pc = d → t.fetchWord = eq32 a b))) ∧
  (∀ (s t : State) (modes : List ParamMode) (d : Nat) (v : Word) (rest : List PullAnswer), s.mem.wf = true →
    WritesTo s 0 d → s.input.answers = .ok v :: rest → exec (.input modes) s = .next t →
    t.readCell d = v ∧ (t.pc = d → t.fetchWord = v))

/-- 20_memory.md R34: an address that fails its check is reported as it is, whatever it was for; an instruction that did not fail
met only addresses of cells; and LEN is the same after any number of steps. -/
def Obligations.BadAddressesAreNeverRepaired : Prop :=
  (∀ (s : State) (role : AddressRole) (i : Nat) (raw : Word), ¬ s.isAddress raw →
    checkAddr s role i raw =
      .error (.addressing (if raw.toInt < 0 then .negativeAddress else .outOfBounds) role i raw)) ∧
  (∀ (i : Instr) (s t : State), exec i s = .next t → s.runState ≠ .failed → t.runState ≠ .failed →
    ∀ k, (i.params[k]? = some .write ∨ (i.params[k]? = some .read ∧ modeOf i.modes k = .position)) →
      s.paramPresent k ∧ s.isAddress (s.paramWord k)) ∧
  (∀ (k : Nat) (s t : State), Host.Core.run core k s = .next t → t.len = s.len)

/-! The ALU. -/

/-- 00_scope.md R6 (the spec's notation, decision D22): `wrap32` is the one `int32` congruent to its argument. -/
def Obligations.WrapIsTheCongruentWord : Prop :=
  ∀ z : Int, (wrap32 z).toInt = (z + 2147483648) % 4294967296 - 2147483648 ∧
    ∀ r : Word, (r.toInt - z) % 4294967296 = 0 ↔ r = wrap32 z

/-- 41_arithmetic.md section 1 (R91, decision D1): the sum, one multiple of 2^32 away at most; its laws and corner values. -/
def Obligations.AdditionWrapsByOneModulus : Prop :=
  (∀ a b : Word,
    (2147483647 < a.toInt + b.toInt → (add32 a b).toInt = a.toInt + b.toInt - 4294967296) ∧
    (a.toInt + b.toInt < -2147483648 → (add32 a b).toInt = a.toInt + b.toInt + 4294967296) ∧
    (-2147483648 ≤ a.toInt + b.toInt → a.toInt + b.toInt ≤ 2147483647 → (add32 a b).toInt = a.toInt + b.toInt) ∧
    (add32 a b).toNat = (a.toNat + b.toNat) % 4294967296 ∧
    add32 a b = add32 b a ∧ add32 a 0 = a ∧ add32 a (mul32 a (-1)) = 0) ∧
  (∀ a b c : Word, add32 (add32 a b) c = add32 a (add32 b c)) ∧
  add32 2147483647 1 = -2147483648 ∧ add32 (-2147483648) (-1) = 2147483647 ∧
  add32 (-2147483648) (-2147483648) = 0 ∧ add32 2147483647 2147483647 = -2

/-- 41_arithmetic.md section 1 (R92, decision D1): the low 32 bits of the product; its laws and corner values. -/
def Obligations.MultiplicationKeepsTheLowWord : Prop :=
  (∀ a b : Word,
    (mul32 a b).toNat = (a.toNat * b.toNat) % 4294967296 ∧
    ((mul32 a b).toInt - a.toInt * b.toInt) % 4294967296 = 0 ∧
    mul32 a b = mul32 b a ∧ mul32 a 1 = a ∧ mul32 a 0 = 0) ∧
  (∀ a b c : Word, mul32 (mul32 a b) c = mul32 a (mul32 b c) ∧
    mul32 a (add32 b c) = add32 (mul32 a b) (mul32 a c)) ∧
  mul32 65536 65536 = 0 ∧ mul32 46341 46341 = -2147479015 ∧ mul32 46340 46340 = 2147395600 ∧
  mul32 (-2147483648) (-1) = -2147483648 ∧ mul32 (-2147483648) 2 = 0 ∧ mul32 2147483647 2147483647 = 1 ∧
  mul32 2147483647 2 = -2 ∧ mul32 (-1) (-1) = 1 ∧ mul32 (-3) 5 = -15

/-- 44_compare.md R120: the two comparisons are signed and exact and answer 1 or 0; its corner values. -/
def Obligations.ComparisonsAreSignedAndExact : Prop :=
  (∀ a b : Word,
    (a.toInt < b.toInt → lt32 a b = 1) ∧ (b.toInt ≤ a.toInt → lt32 a b = 0) ∧
    (a.toInt = b.toInt → eq32 a b = 1) ∧ (a.toInt ≠ b.toInt → eq32 a b = 0)) ∧
  lt32 (-2147483648) 2147483647 = 1 ∧ lt32 2147483647 (-2147483648) = 0 ∧ lt32 (-1) 0 = 1 ∧ lt32 5 5 = 0 ∧
  eq32 (-1) (-1) = 1 ∧ eq32 0 (-2147483648) = 0

/-! The addressing-mode resolver. -/

/-- 40_cycle_and_operands.md R74: the mode of a parameter is its entry of the decoded list, or Position beyond its end. -/
def Obligations.ModeOfAParameter : Prop :=
  ∀ (modes : List ParamMode) (i : Nat),
    (∀ m, modes[i]? = some m → modeOf modes i = m) ∧ (modes.length ≤ i → modeOf modes i = .position)

/-- 40_cycle_and_operands.md R76: a read-parameter resolves exactly as the rule says, and fails exactly as it says, the negative
test before the upper bound (the parameter cell's own bound is R75, decision D8). -/
def Obligations.ReadParameterResolves : Prop :=
  ∀ (s : State) (modes : List ParamMode) (i : Nat),
    (∀ v, readParam s modes i = .ok v ↔ ReadsAs s modes i v) ∧
    (∀ f, readParam s modes i = .error f ↔ ReadFails s modes i f)

/-- 40_cycle_and_operands.md R77: a write-address parameter gives its raw word as the destination, or fails, whatever its mode: the
instructions that have one do the same with every mode digit for it. -/
def Obligations.WriteParameterResolves : Prop :=
  (∀ (s : State) (i : Nat),
    (∀ d, writeAddr s i = .ok d ↔ WritesTo s i d) ∧ (∀ f, writeAddr s i = .error f ↔ WriteFails s i f)) ∧
  (∀ (s : State) (m0 m1 m2 : ParamMode),
    exec (.add [m0, m1, m2]) s = exec (.add [m0, m1]) s ∧ exec (.mul [m0, m1, m2]) s = exec (.mul [m0, m1]) s ∧
    exec (.less [m0, m1, m2]) s = exec (.less [m0, m1]) s ∧ exec (.equal [m0, m1, m2]) s = exec (.equal [m0, m1]) s ∧
    exec (.input [m0]) s = exec (.input []) s)

/-! The nine instructions: completion, result and failure. The explicit next state is the frame as well: whatever it does not
name is unchanged. -/

/-- 41_arithmetic.md R93, with `add32` as AdditionWrapsByOneModulus says. -/
def Obligations.AddFollowsItsRule : Prop := RrwRule .add 1 add32

/-- 41_arithmetic.md R94, with `mul32` as MultiplicationKeepsTheLowWord says. -/
def Obligations.MulFollowsItsRule : Prop := RrwRule .mul 2 mul32

/-- 44_compare.md R121, with `lt32` as ComparisonsAreSignedAndExact says. -/
def Obligations.LessFollowsItsRule : Prop := RrwRule .less 7 lt32

/-- 44_compare.md R122, with `eq32` as ComparisonsAreSignedAndExact says. -/
def Obligations.EqualFollowsItsRule : Prop := RrwRule .equal 8 eq32

/-- 42_io.md R102: the destination is checked first; then the pull's value is stored, or its failure raised. -/
def Obligations.InputFollowsItsRule : Prop :=
  (∀ w modes, decode w = .ok (.input modes) → w.toNat % 100 = 3) ∧
  ∀ (modes : List ParamMode) (s : State),
    (Instr.input modes).params = [.write] ∧ (Instr.input modes).lengthCells = 2 ∧
    (∀ d v rest, WritesTo s 0 d → s.input.answers = .ok v :: rest →
      exec (.input modes) s = .next { s with
        mem := s.mem.write d v, pc := s.pc + 2, portCall := none,
        input := { answers := rest, pulled := s.input.pulled ++ [v] } }) ∧
    (∀ d r rest, WritesTo s 0 d → s.input.answers = .fail r :: rest →
      exec (.input modes) s = .next ({ s with
        portCall := none, input := { answers := rest, pulled := s.input.pulled } }.failedWith
          { kind := .ioPort, sub := .inputPort, role := .none, param := 0, valueValid := false, value := 0,
            ioReason := some r })) ∧
    (∀ e, WriteFails s 0 e → exec (.input modes) s = .next (s.failedWith (recordOf e)))

/-- 42_io.md R103: the parameter is resolved first; then its value is pushed, or the push's failure raised. -/
def Obligations.OutputFollowsItsRule : Prop :=
  (∀ w modes, decode w = .ok (.output modes) → w.toNat % 100 = 4) ∧
  ∀ (modes : List ParamMode) (s : State),
    (Instr.output modes).params = [.read] ∧ (Instr.output modes).lengthCells = 2 ∧
    (∀ v rest, ReadsAs s modes 0 v → s.output.answers = .ok :: rest →
      exec (.output modes) s = .next { s with
        pc := s.pc + 2, portCall := none,
        output := { answers := rest, pushed := s.output.pushed ++ [v] } }) ∧
    (∀ v r rest, ReadsAs s modes 0 v → s.output.answers = .fail r :: rest →
      exec (.output modes) s = .next ({ s with
        portCall := none, output := { answers := rest, pushed := s.output.pushed } }.failedWith
          { kind := .ioPort, sub := .outputPort, role := .none, param := 0, valueValid := true, value := v,
            ioReason := some r })) ∧
    (∀ e, ReadFails s modes 0 e → exec (.output modes) s = .next (s.failedWith (recordOf e)))

/-- 43_jumps.md sections 1 and 2 (R110, R112): JumpIfTrue, on any non-zero condition. That both parameters are always resolved is
the spec's decision D11, that the target is checked only when the jump is taken its decision D10. -/
def Obligations.JumpIfTrueFollowsItsRule : Prop := JumpRule .jumpIfTrue 5 (fun a => a.toInt ≠ 0)

/-- 43_jumps.md R111: JumpIfFalse, taken exactly on 0 (the target's check is R112, decision D10). -/
def Obligations.JumpIfFalseFollowsItsRule : Prop := JumpRule .jumpIfFalse 6 (fun a => a.toInt = 0)

/-- 45_halt.md section 1 (R130): Halt ends the run, whatever its mode digits; `pc = ia + 1` is the spec's decision D13. -/
def Obligations.HaltFollowsItsRule : Prop :=
  (∀ w modes, decode w = .ok (.halt modes) → w.toNat % 100 = 99) ∧
  ∀ (modes : List ParamMode) (s : State),
    (Instr.halt modes).params = [] ∧ (Instr.halt modes).lengthCells = 1 ∧
    exec (.halt modes) s = .next { s with runState := .halted, haltCause := .explicitHalt, pc := s.pc + 1 }

/-! Frames, over every next state, a failure's included. -/

/-- 40_cycle_and_operands.md section 3 (R80, R83): Add, Mul, Less and Equal change no cell but the destination, none where there is
no destination; `pc`, and in a failure `run_state` and the record, are all else they change. -/
def Obligations.StoringInstructionsChangeOneCell : Prop :=
  ∀ (i : Instr) (modes : List ParamMode) (s t : State),
    i ∈ [.add modes, .mul modes, .less modes, .equal modes] → s.mem.wf = true → exec i s = .next t →
    t.len = s.len ∧ t.haltCause = s.haltCause ∧ t.diag = s.diag ∧ t.portCall = s.portCall ∧
    t.input = s.input ∧ t.output = s.output ∧
    ((t.runState = s.runState ∧ t.err = s.err) ∨ (t.runState = .failed ∧ t.pc = s.pc ∧ t.mem = s.mem)) ∧
    (∀ d, writeAddr s 2 = .ok d → ∀ a, a ≠ d → t.readCell a = s.readCell a) ∧
    (∀ e, writeAddr s 2 = .error e → ∀ a, t.readCell a = s.readCell a)

/-- 42_io.md section 2 (R102): Input changes no cell but its destination, none where the pull is not answered with a value; the
output port, the snapshot, LEN and `halt_cause` stay (that a pull not answered is a next state is log entry 5). -/
def Obligations.InputChangesOneCell : Prop :=
  ∀ (modes : List ParamMode) (s t : State), s.mem.wf = true → exec (.input modes) s = .next t →
    t.len = s.len ∧ t.haltCause = s.haltCause ∧ t.diag = s.diag ∧ t.output = s.output ∧
    ((t.runState = s.runState ∧ t.err = s.err) ∨ (t.runState = .failed ∧ t.pc = s.pc ∧ t.mem = s.mem)) ∧
    (∀ d, writeAddr s 0 = .ok d → ∀ a, a ≠ d → t.readCell a = s.readCell a) ∧
    ((∀ d v rest, writeAddr s 0 = .ok d → s.input.answers ≠ .ok v :: rest) → t.mem = s.mem ∧ t.pc = s.pc)

/-- 42_io.md section 3, 43_jumps.md, 45_halt.md (R103, R110, R111, R130): Output, the jumps and Halt write no cell; the input port,
the snapshot and LEN stay; only Output touches the output port, and only Halt `halt_cause`. -/
def Obligations.OtherInstructionsWriteNoCell : Prop :=
  ∀ (i : Instr) (modes : List ParamMode) (s t : State),
    i ∈ [.output modes, .jumpIfTrue modes, .jumpIfFalse modes, .halt modes] → exec i s = .next t →
    t.mem = s.mem ∧ t.len = s.len ∧ t.diag = s.diag ∧ t.input = s.input ∧
    (i ≠ .output modes → t.output = s.output ∧ t.portCall = s.portCall) ∧
    (i ≠ .halt modes → t.haltCause = s.haltCause ∧
      ((t.runState = s.runState ∧ t.err = s.err) ∨ (t.runState = .failed ∧ t.pc = s.pc))) ∧
    (i = .halt modes → t.err = s.err)

/-! Failures. -/

/-- 40_cycle_and_operands.md R73 and 60_exceptions.md R142: a decode failure ends the cycle at once, with exactly this record; no
port is called, Memory and `pc` are unchanged. -/
def Obligations.DecodeFailureRecordsTheWord : Prop :=
  ∀ (s : State) (sub : DecodeFailure), s.runState = .running → s.portCall = none → s.pc < s.len →
    decode s.fetchWord = .error sub →
    step s = .next { s with
      runState := .failed
      diag := { valid := true, addr := s.pc, word := s.fetchWord }
      err := { kind := .decode
               sub := match sub with
                 | .negativeWord => .negativeWord
                 | .badOpcode => .badOpcode
                 | .badMode => .badMode
               role := .none, param := 0, valueValid := true, value := s.fetchWord, ioReason := none } }

/-- 60_exceptions.md R143: what an Addressing failure records, and which address the offending one is for each role; each role is
that of R141's table, ReadDeref of a Position-mode read-parameter, WriteDest of a W parameter, JumpTarget of a taken jump. -/
def Obligations.AddressingFailureRecordsTheAddress : Prop :=
  ∀ (s t : State) (i : Instr), s.Inv → s.runState = .running → s.portCall = none → s.fetches i →
    step s = .next t → t.runState = .failed → t.err.kind = .addressing →
    t.err.valueValid = true ∧ t.err.ioReason = none ∧ t.err.param < i.params.length ∧
    ((t.err.sub = .negativeAddress ∧ t.err.value.toInt < 0) ∨
     (t.err.sub = .outOfBounds ∧ (s.len : Int) ≤ t.err.value.toInt)) ∧
    ((t.err.role = .operandFetch ∧ t.err.sub = .outOfBounds ∧ t.err.value.toInt = s.len ∧
        s.pc + 1 + t.err.param = s.len) ∨
     (t.err.role = .readDeref ∧ i.params[t.err.param]? = some .read ∧ modeOf i.modes t.err.param = .position ∧
        t.err.value = s.paramWord t.err.param) ∨
     (t.err.role = .writeDest ∧ i.params[t.err.param]? = some .write ∧ t.err.value = s.paramWord t.err.param) ∨
     (t.err.role = .jumpTarget ∧ t.err.param = 1 ∧ ReadsAs s i.modes 1 t.err.value ∧
        ∃ a, ReadsAs s i.modes 0 a ∧
          ((i = .jumpIfTrue i.modes ∧ a.toInt ≠ 0) ∨ (i = .jumpIfFalse i.modes ∧ a.toInt = 0))))

/-- Derived from 60_exceptions.md section 1 (R144) and 42_io.md section 1 (R104, R105): what an IoPort failure records, of a step that
fetches an Input or an Output whose operand resolved, and of a step that goes on with a call waited for. The model's choice, not the
spec's (log entries 4 and 5, DESIGN CHOICE): the form of waiting, and that a call answered is over and takes its one answer. -/
def Obligations.PortFailureRecordsTheReason : Prop :=
  ∀ (s : State) (r : IoReason), s.runState = .running →
    (∀ modes d rest, s.portCall = none → s.fetches (.input modes) → WritesTo s 0 d → s.input.answers = .fail r :: rest →
      step s = .next ({ s with
        diag := { valid := true, addr := s.pc, word := s.fetchWord }
        input := { answers := rest, pulled := s.input.pulled } }.failedWith
          { kind := .ioPort, sub := .inputPort, role := .none, param := 0, valueValid := false, value := 0,
            ioReason := some r })) ∧
    (∀ d rest, s.portCall = some (.pull d) → s.input.answers = .fail r :: rest →
      step s = .next ({ s with
        portCall := none, input := { answers := rest, pulled := s.input.pulled } }.failedWith
          { kind := .ioPort, sub := .inputPort, role := .none, param := 0, valueValid := false, value := 0,
            ioReason := some r })) ∧
    (∀ modes v rest, s.portCall = none → s.fetches (.output modes) → ReadsAs s modes 0 v →
      s.output.answers = .fail r :: rest →
      step s = .next ({ s with
        diag := { valid := true, addr := s.pc, word := s.fetchWord }
        output := { answers := rest, pushed := s.output.pushed } }.failedWith
          { kind := .ioPort, sub := .outputPort, role := .none, param := 0, valueValid := true, value := v,
            ioReason := some r })) ∧
    (∀ v rest, s.portCall = some (.push v) → s.output.answers = .fail r :: rest →
      step s = .next ({ s with
        portCall := none, output := { answers := rest, pushed := s.output.pushed } }.failedWith
          { kind := .ioPort, sub := .outputPort, role := .none, param := 0, valueValid := true, value := v,
            ioReason := some r }))

/-- 60_exceptions.md section 3 (R147, R148; `pc = ia` is decision D12): a failing cycle changes neither Memory nor `pc` nor
`halt_cause` nor what was pulled and pushed, its snapshot names the instruction at `pc`, and its record is not empty. -/
def Obligations.FailedCycleIsPrecise : Prop :=
  ∀ s t : State, s.Inv → step s = .next t → t.runState = .failed →
    t.mem = s.mem ∧ t.len = s.len ∧ t.pc = s.pc ∧ t.haltCause = s.haltCause ∧
    t.input.pulled = s.input.pulled ∧ t.output.pushed = s.output.pushed ∧
    t.diag = { valid := true, addr := s.pc, word := s.fetchWord } ∧ t.err.kind ≠ .none

/-- 60_exceptions.md R149: Failed is terminal: no number of steps goes on from it, so no second failure and no return can follow,
and a run that comes to Failed has made its last step. -/
def Obligations.FailedIsTerminal : Prop :=
  ∀ s : State, s.runState = .failed → ∀ k t, Host.Core.run core (k + 1) s ≠ .next t

/-! The cycle. -/

/-- 40_cycle_and_operands.md section 1 (R70, R72, R81): a step in Running, inside no port call, with the word at `pc` decoding to
`i`, is `exec i` after the snapshot. -/
def Obligations.StepRunsTheDecodedInstruction : Prop :=
  ∀ (s : State) (i : Instr), s.runState = .running → s.portCall = none → s.fetches i →
    step s = exec i { s with diag := { valid := true, addr := s.pc, word := s.fetchWord } }

/-- 40_cycle_and_operands.md section 1 (R71; the cause is decision D14): a cycle that starts with `pc >= LEN` ends the run as a
success and changes nothing else. -/
def Obligations.RunningOffTheEndIsSuccess : Prop :=
  ∀ s : State, s.runState = .running → s.portCall = none → s.len ≤ s.pc →
    step s = .next { s with runState := .halted, haltCause := .ranOffEnd }

/-- 10_state.md section 4 (R16, R17; the cause is decision D14): a run becomes Halted by Halt, with ExplicitHalt, or by starting a
cycle with `pc >= LEN`, with RanOffEnd, and in no other way; and no step is taken in Halted (the model says so by a named fault, log
entry 6). -/
def Obligations.HaltedInExactlyTwoWays : Prop :=
  (∀ s t : State, step s = .next t →
    (t.runState = .halted ↔ s.portCall = none ∧ (s.len ≤ s.pc ∨ ∃ modes, s.fetches (.halt modes))) ∧
    (t.runState = .halted → t.haltCause = if s.len ≤ s.pc then .ranOffEnd else .explicitHalt)) ∧
  (∀ s : State, s.runState = .halted → step s = .fault .runHalted)

/-- 60_exceptions.md section 4 (R158, R159): while Running, whatever Memory holds, a step answers a next state; and every
instruction answers one in every state. Where a port has not answered, that this is a next state which still waits is the model's
choice (DESIGN CHOICE, log entry 5; 93_implementation_defined.md I6 says the engine has no step until the port answers). -/
def Obligations.RunningAlwaysHasANextState : Prop :=
  (∀ s : State, s.runState = .running → ∃ t, step s = .next t) ∧ ∀ (i : Instr) (s : State), ∃ t, exec i s = .next t

/-- 42_io.md section 1 (R105, decision D18; the model's form is log entry 5): a port that has not answered leaves the engine inside
the call with nothing but the snapshot written; it stays so until the port answers, and then goes on as if the answer had been
there. -/
def Obligations.UnansweredPortCallWaits : Prop :=
  ∀ s : State, s.runState = .running → s.portCall = none →
    (∀ modes d, s.fetches (.input modes) → WritesTo s 0 d → s.input.answers = [] →
      step s = .next { s with
        diag := { valid := true, addr := s.pc, word := s.fetchWord }, portCall := some (.pull d) } ∧
      ∀ t, step s = .next t → step t = .next t ∧ ∀ a, step (t.offerPull a) = step (s.offerPull a)) ∧
    (∀ modes v, s.fetches (.output modes) → ReadsAs s modes 0 v → s.output.answers = [] →
      step s = .next { s with
        diag := { valid := true, addr := s.pc, word := s.fetchWord }, portCall := some (.push v) } ∧
      ∀ t, step s = .next t → step t = .next t ∧ ∀ a, step (t.offerPush a) = step (s.offerPush a))

/-- 42_io.md section 1 (R104): an Input whose destination passed makes the one pull, an Output whose parameter resolved the one
push, each taking the next answer if there is one and waiting if there is none (log entries 4 and 5; the histories are log entry 8);
no other cycle touches a port. -/
def Obligations.PortCallsAreOnePerCycle : Prop :=
  ∀ s t : State, s.portCall = none → step s = .next t →
    (∀ modes d, s.fetches (.input modes) → WritesTo s 0 d →
      (s.input.answers = [] ∧ t.input = s.input) ∨
      (∃ v, s.input.answers = .ok v :: t.input.answers ∧ t.input.pulled = s.input.pulled ++ [v]) ∨
      (∃ r, s.input.answers = .fail r :: t.input.answers ∧ t.input.pulled = s.input.pulled)) ∧
    ((¬ ∃ modes d, s.fetches (.input modes) ∧ WritesTo s 0 d) → t.input = s.input) ∧
    (∀ modes v, s.fetches (.output modes) → ReadsAs s modes 0 v →
      (s.output.answers = [] ∧ t.output = s.output) ∨
      (s.output.answers = .ok :: t.output.answers ∧ t.output.pushed = s.output.pushed ++ [v]) ∨
      (∃ r, s.output.answers = .fail r :: t.output.answers ∧ t.output.pushed = s.output.pushed)) ∧
    ((¬ ∃ modes v, s.fetches (.output modes) ∧ ReadsAs s modes 0 v) → t.output = s.output)

/-- The finite answer lists (log entry 4) lose nothing: a step that does not wait does the same when more answers stand behind
those it has, and leaves them. -/
def Obligations.LaterAnswersDoNotMatterYet : Prop :=
  ∀ (s t : State) (pulls : List PullAnswer) (pushes : List PushAnswer),
    step s = .next t → t.portCall = none → step (s.withMore pulls pushes) = .next (t.withMore pulls pushes)

/-- 10_state.md section 5 (R17, R18, R19; "never consulted by control flow", decisions D14 to D16): the snapshot, the record,
`halt_cause` and the histories of two states never make their steps differ in anything else. -/
def Obligations.DiagnosticsAreNeverConsulted : Prop :=
  ∀ s s' : State, SameButDiagnostics s s' → SameResultButDiagnostics (step s) (step s')

/-! Whole-machine rules. -/

/-- 10_state.md section 3 (R14, the spec's inference; 90_conflicts.md C6): `pc` comes to LEN by the sequential advance over the
fetched instruction only, never by a taken jump or anything else. -/
def Obligations.PcReachesLenOnlySequentially : Prop :=
  ∀ s t : State, s.Inv → step s = .next t → t.pc = t.len → t.pc ≠ s.pc →
    ∃ i, s.fetches i ∧ t.pc = s.pc + i.lengthCells

/-- 70_reset_and_hazards.md section 1 (R170, R171; values of decision D21): reset with an image that is not too long gives every
element its reset value and every cell its image value; a longer image is refused. The model's own clauses: LEN and the image come in
through `State.load` (log entry 3), the answers to come are its arguments (log entry 4), no port call is in flight (log entry 5,
DEDUCED), the histories are empty (log entry 8, DESIGN CHOICE). -/
def Obligations.LoadIsResetWithTheImage : Prop :=
  ∀ (img : List Word) (pulls : List PullAnswer) (pushes : List PushAnswer),
    (img.length ≤ 2147483647 → ∃ s, State.load img pulls pushes = some s ∧
      s.len = img.length ∧ s.pc = 0 ∧ s.runState = .running ∧ s.haltCause = .none ∧
      s.diag = { valid := false, addr := 0, word := 0 } ∧
      s.err = { kind := .none, sub := .none, role := .none, param := 0, valueValid := false, value := 0,
                ioReason := none } ∧
      s.portCall = none ∧ s.input = { answers := pulls, pulled := [] } ∧ s.output = { answers := pushes, pushed := [] } ∧
      ∀ a v, img[a]? = some v → s.readCell a = v) ∧
    (2147483647 < img.length → State.load img pulls pushes = none)

/-- The invariant of a run holds right after reset with no image (LEN 0 is log entry 3, no call in flight log entry 5). -/
def Obligations.ResetMeetsTheInvariant : Prop := State.reset.Inv

/-- The invariant of a run holds right after reset with any image that is admitted (log entries 3 and 4; no call in flight is
log entry 5). -/
def Obligations.LoadMeetsTheInvariant : Prop :=
  ∀ (img : List Word) (pulls : List PullAnswer) (pushes : List PushAnswer) (s : State),
    State.load img pulls pushes = some s → s.Inv

/-- The headline: every step keeps the invariant, which gathers 10_state.md R14, R16 to R20, R24, 20_memory.md R38 and
60_exceptions.md R141 to R144, R148, the canonical memory (log entry 2) and the outstanding call (log entry 5). -/
def Obligations.StepKeepsTheInvariant : Prop := ∀ s t : State, s.Inv → step s = .next t → t.Inv

/-! The host. -/

/-- 10_state.md section 5 and 70_reset_and_hazards.md section 2 (R26, R177; the codes of R16, R17, R19, numbers and codes of decision
D15): the host reads every one of S0 to S12, with its code, and the cells of Memory after the run, nothing while Running, no other
number and no cell that does not exist. -/
def Obligations.HostReadsOnlyAfterTheRun : Prop :=
  ∀ s : State,
    (s.runState = .running → (∀ n, s.readStatus n = none) ∧ ∀ a, s.hostReadCell a = none) ∧
    (s.runState ≠ .running →
      s.readStatus 0 = some (.number (match s.runState with
        | .running => 0 | .halted => 1 | .failed => 2)) ∧
      s.readStatus 1 = some (.number (match s.haltCause with
        | .none => 0 | .explicitHalt => 1 | .ranOffEnd => 2)) ∧
      s.readStatus 2 = some (.number s.pc) ∧
      s.readStatus 3 = some (.number (if s.diag.valid then 1 else 0)) ∧
      s.readStatus 4 = some (.number s.diag.addr) ∧
      s.readStatus 5 = some (.word s.diag.word) ∧
      s.readStatus 6 = some (.number (match s.err.kind with
        | .none => 0 | .decode => 1 | .addressing => 2 | .ioPort => 3)) ∧
      s.readStatus 7 = some (.number (match s.err.sub with
        | .none => 0 | .negativeWord => 1 | .badOpcode => 2 | .badMode => 3
        | .negativeAddress => 1 | .outOfBounds => 2 | .inputPort => 1 | .outputPort => 2)) ∧
      s.readStatus 8 = some (.number (match s.err.role with
        | .none => 0 | .operandFetch => 1 | .readDeref => 2 | .writeDest => 3 | .jumpTarget => 4)) ∧
      s.readStatus 9 = some (.number s.err.param) ∧
      s.readStatus 10 = some (.number (if s.err.valueValid then 1 else 0)) ∧
      s.readStatus 11 = some (.word s.err.value) ∧
      s.readStatus 12 = some (.reason s.err.ioReason) ∧
      (∀ n, 13 ≤ n → s.readStatus n = none) ∧
      (∀ a, a < s.len → s.hostReadCell a = some (s.readCell a)) ∧ ∀ a, s.len ≤ a → s.hostReadCell a = none)

/-- 60_exceptions.md R159: success with either cause when Halted, failure with the record and the snapshot when Failed, no result
while the run has not ended. -/
def Obligations.ResultOfARun : Prop :=
  ∀ s : State,
    (s.runResult = some .success ↔ s.runState = .halted) ∧
    (∀ r d, s.runResult = some (.failure r d) ↔ s.runState = .failed ∧ r = s.err ∧ d = s.diag) ∧
    (s.runResult = none ↔ s.runState = .running)
end

