-- ==== Sys2Proof/Laws/Memory.lean ====
section
/-! SUPPORT. Every operation that writes Memory keeps its canonical form and its bound. -/

namespace Sys2Proof.Machine

theorem Memory.wf_cons {a : Nat} {v : Word} {rest : Memory} :
    Memory.wf ((a, v) :: rest) = true ↔
      v ≠ Memory.unlisted ∧ (∀ c ∈ rest, a < c.1) ∧ rest.wf = true := by
  simp [Memory.wf, and_assoc]

/-- Every cell a write leaves listed was listed before or is the cell written. -/
theorem Memory.mem_write {m : Memory} {a : Nat} {v : Word} {c : Nat × Word} (h : c ∈ m.write a v) :
    c ∈ m ∨ c = (a, v) := by
  induction m with
  | nil => simp only [Memory.write] at h; split at h <;> simp_all
  | cons p rest ih =>
    obtain ⟨b, u⟩ := p
    simp only [Memory.write] at h
    split_ifs at h <;> simp only [List.mem_cons] at h ⊢ <;> tauto

/-- A write keeps the canonical form. -/
theorem Memory.write_wf {m : Memory} (h : m.wf = true) (a : Nat) (v : Word) : (m.write a v).wf = true := by
  induction m with
  | nil => simp only [Memory.write]; split_ifs with hv <;> simp [Memory.wf, hv]
  | cons p rest ih =>
    obtain ⟨b, u⟩ := p
    obtain ⟨hu, hlt, hrest⟩ := Memory.wf_cons.1 h
    simp only [Memory.write]
    split_ifs with hab hv heq hv
    · exact h
    · refine Memory.wf_cons.2 ⟨hv, ?_, h⟩
      intro c hc
      rcases List.mem_cons.1 hc with rfl | hc
      · exact hab
      · exact hab.trans (hlt c hc)
    · exact hrest
    · subst heq; exact Memory.wf_cons.2 ⟨hv, hlt, hrest⟩
    · refine Memory.wf_cons.2 ⟨hu, ?_, ih hrest⟩
      intro c hc
      rcases Memory.mem_write hc with hc | rfl
      · exact hlt c hc
      · simp only; omega

theorem Memory.below_iff {len : Nat} {m : Memory} : m.below len = true ↔ ∀ c ∈ m, c.1 < len := by
  simp [Memory.below]

/-- A write to a cell that exists lists no cell that does not. -/
theorem Memory.write_below {m : Memory} {len a : Nat} (h : m.below len = true) (ha : a < len) (v : Word) :
    (m.write a v).below len = true := by
  rw [Memory.below_iff] at h ⊢
  intro c hc
  rcases Memory.mem_write hc with hc | rfl
  · exact h c hc
  · exact ha

/-- Writing the words of an image keeps the canonical form. -/
theorem Memory.writeList_wf {m : Memory} (h : m.wf = true) (a : Nat) (vs : List Word) :
    (m.writeList a vs).wf = true := by
  induction vs generalizing m a with
  | nil => exact h
  | cons v vs ih => exact ih (Memory.write_wf h a v) (a + 1)

/-- Writing the words of an image that fits lists no cell that does not exist. -/
theorem Memory.writeList_below {m : Memory} {len : Nat} (h : m.below len = true) (a : Nat) (vs : List Word)
    (hfit : a + vs.length ≤ len) : (m.writeList a vs).below len = true := by
  induction vs generalizing m a with
  | nil => exact h
  | cons v vs ih =>
    simp only [List.length_cons] at hfit
    exact ih (Memory.write_below h (by omega) v) (a + 1) (by omega)

end Sys2Proof.Machine
end

