-- ==== Sys2Proof/Laws/State.lean ====
section
/-! SUPPORT. One lemma per field per named update of the state, each true by rfl, so that no proof unfolds a record update; then
what the reads through the state (a cell, the fetched word, a parameter's address) see of each update. -/

namespace Sys2Proof.Machine

/-! What `State.writeCell` leaves in each field. -/

@[simp] theorem State.writeCell_len (s : State) (a : Nat) (v : Word) : (s.writeCell a v).len = s.len := rfl
@[simp] theorem State.writeCell_mem (s : State) (a : Nat) (v : Word) : (s.writeCell a v).mem = s.mem.write a v := rfl
@[simp] theorem State.writeCell_pc (s : State) (a : Nat) (v : Word) : (s.writeCell a v).pc = s.pc := rfl
@[simp] theorem State.writeCell_runState (s : State) (a : Nat) (v : Word) : (s.writeCell a v).runState = s.runState := rfl
@[simp] theorem State.writeCell_haltCause (s : State) (a : Nat) (v : Word) : (s.writeCell a v).haltCause = s.haltCause := rfl
@[simp] theorem State.writeCell_diag (s : State) (a : Nat) (v : Word) : (s.writeCell a v).diag = s.diag := rfl
@[simp] theorem State.writeCell_err (s : State) (a : Nat) (v : Word) : (s.writeCell a v).err = s.err := rfl
@[simp] theorem State.writeCell_portCall (s : State) (a : Nat) (v : Word) : (s.writeCell a v).portCall = s.portCall := rfl
@[simp] theorem State.writeCell_input (s : State) (a : Nat) (v : Word) : (s.writeCell a v).input = s.input := rfl
@[simp] theorem State.writeCell_output (s : State) (a : Nat) (v : Word) : (s.writeCell a v).output = s.output := rfl

/-! What `State.setPc` leaves in each field. -/

@[simp] theorem State.setPc_len (s : State) (n : Nat) : (s.setPc n).len = s.len := rfl
@[simp] theorem State.setPc_mem (s : State) (n : Nat) : (s.setPc n).mem = s.mem := rfl
@[simp] theorem State.setPc_pc (s : State) (n : Nat) : (s.setPc n).pc = n := rfl
@[simp] theorem State.setPc_runState (s : State) (n : Nat) : (s.setPc n).runState = s.runState := rfl
@[simp] theorem State.setPc_haltCause (s : State) (n : Nat) : (s.setPc n).haltCause = s.haltCause := rfl
@[simp] theorem State.setPc_diag (s : State) (n : Nat) : (s.setPc n).diag = s.diag := rfl
@[simp] theorem State.setPc_err (s : State) (n : Nat) : (s.setPc n).err = s.err := rfl
@[simp] theorem State.setPc_portCall (s : State) (n : Nat) : (s.setPc n).portCall = s.portCall := rfl
@[simp] theorem State.setPc_input (s : State) (n : Nat) : (s.setPc n).input = s.input := rfl
@[simp] theorem State.setPc_output (s : State) (n : Nat) : (s.setPc n).output = s.output := rfl

/-! What `State.snapshot` leaves in each field. -/

@[simp] theorem State.snapshot_len (s : State) (ia : Nat) (w : Word) : (s.snapshot ia w).len = s.len := rfl
@[simp] theorem State.snapshot_mem (s : State) (ia : Nat) (w : Word) : (s.snapshot ia w).mem = s.mem := rfl
@[simp] theorem State.snapshot_pc (s : State) (ia : Nat) (w : Word) : (s.snapshot ia w).pc = s.pc := rfl
@[simp] theorem State.snapshot_runState (s : State) (ia : Nat) (w : Word) : (s.snapshot ia w).runState = s.runState := rfl
@[simp] theorem State.snapshot_haltCause (s : State) (ia : Nat) (w : Word) : (s.snapshot ia w).haltCause = s.haltCause := rfl
@[simp] theorem State.snapshot_diag (s : State) (ia : Nat) (w : Word) : (s.snapshot ia w).diag = { valid := true, addr := ia, word := w } := rfl
@[simp] theorem State.snapshot_err (s : State) (ia : Nat) (w : Word) : (s.snapshot ia w).err = s.err := rfl
@[simp] theorem State.snapshot_portCall (s : State) (ia : Nat) (w : Word) : (s.snapshot ia w).portCall = s.portCall := rfl
@[simp] theorem State.snapshot_input (s : State) (ia : Nat) (w : Word) : (s.snapshot ia w).input = s.input := rfl
@[simp] theorem State.snapshot_output (s : State) (ia : Nat) (w : Word) : (s.snapshot ia w).output = s.output := rfl

/-! What `State.haltWith` leaves in each field. -/

@[simp] theorem State.haltWith_len (s : State) (c : HaltCause) : (s.haltWith c).len = s.len := rfl
@[simp] theorem State.haltWith_mem (s : State) (c : HaltCause) : (s.haltWith c).mem = s.mem := rfl
@[simp] theorem State.haltWith_pc (s : State) (c : HaltCause) : (s.haltWith c).pc = s.pc := rfl
@[simp] theorem State.haltWith_runState (s : State) (c : HaltCause) : (s.haltWith c).runState = .halted := rfl
@[simp] theorem State.haltWith_haltCause (s : State) (c : HaltCause) : (s.haltWith c).haltCause = c := rfl
@[simp] theorem State.haltWith_diag (s : State) (c : HaltCause) : (s.haltWith c).diag = s.diag := rfl
@[simp] theorem State.haltWith_err (s : State) (c : HaltCause) : (s.haltWith c).err = s.err := rfl
@[simp] theorem State.haltWith_portCall (s : State) (c : HaltCause) : (s.haltWith c).portCall = s.portCall := rfl
@[simp] theorem State.haltWith_input (s : State) (c : HaltCause) : (s.haltWith c).input = s.input := rfl
@[simp] theorem State.haltWith_output (s : State) (c : HaltCause) : (s.haltWith c).output = s.output := rfl

/-! What `State.awaitPort` leaves in each field. -/

@[simp] theorem State.awaitPort_len (s : State) (c : PortCall) : (s.awaitPort c).len = s.len := rfl
@[simp] theorem State.awaitPort_mem (s : State) (c : PortCall) : (s.awaitPort c).mem = s.mem := rfl
@[simp] theorem State.awaitPort_pc (s : State) (c : PortCall) : (s.awaitPort c).pc = s.pc := rfl
@[simp] theorem State.awaitPort_runState (s : State) (c : PortCall) : (s.awaitPort c).runState = s.runState := rfl
@[simp] theorem State.awaitPort_haltCause (s : State) (c : PortCall) : (s.awaitPort c).haltCause = s.haltCause := rfl
@[simp] theorem State.awaitPort_diag (s : State) (c : PortCall) : (s.awaitPort c).diag = s.diag := rfl
@[simp] theorem State.awaitPort_err (s : State) (c : PortCall) : (s.awaitPort c).err = s.err := rfl
@[simp] theorem State.awaitPort_portCall (s : State) (c : PortCall) : (s.awaitPort c).portCall = some c := rfl
@[simp] theorem State.awaitPort_input (s : State) (c : PortCall) : (s.awaitPort c).input = s.input := rfl
@[simp] theorem State.awaitPort_output (s : State) (c : PortCall) : (s.awaitPort c).output = s.output := rfl

/-! What `State.pullAnswered` leaves in each field. -/

@[simp] theorem State.pullAnswered_len (s : State) (rest : List PullAnswer) (got : List Word) : (s.pullAnswered rest got).len = s.len := rfl
@[simp] theorem State.pullAnswered_mem (s : State) (rest : List PullAnswer) (got : List Word) : (s.pullAnswered rest got).mem = s.mem := rfl
@[simp] theorem State.pullAnswered_pc (s : State) (rest : List PullAnswer) (got : List Word) : (s.pullAnswered rest got).pc = s.pc := rfl
@[simp] theorem State.pullAnswered_runState (s : State) (rest : List PullAnswer) (got : List Word) : (s.pullAnswered rest got).runState = s.runState := rfl
@[simp] theorem State.pullAnswered_haltCause (s : State) (rest : List PullAnswer) (got : List Word) : (s.pullAnswered rest got).haltCause = s.haltCause := rfl
@[simp] theorem State.pullAnswered_diag (s : State) (rest : List PullAnswer) (got : List Word) : (s.pullAnswered rest got).diag = s.diag := rfl
@[simp] theorem State.pullAnswered_err (s : State) (rest : List PullAnswer) (got : List Word) : (s.pullAnswered rest got).err = s.err := rfl
@[simp] theorem State.pullAnswered_portCall (s : State) (rest : List PullAnswer) (got : List Word) : (s.pullAnswered rest got).portCall = none := rfl
@[simp] theorem State.pullAnswered_input (s : State) (rest : List PullAnswer) (got : List Word) : (s.pullAnswered rest got).input = { answers := rest, pulled := s.input.pulled ++ got } := rfl
@[simp] theorem State.pullAnswered_output (s : State) (rest : List PullAnswer) (got : List Word) : (s.pullAnswered rest got).output = s.output := rfl

/-! What `State.pushAnswered` leaves in each field. -/

@[simp] theorem State.pushAnswered_len (s : State) (rest : List PushAnswer) (put : List Word) : (s.pushAnswered rest put).len = s.len := rfl
@[simp] theorem State.pushAnswered_mem (s : State) (rest : List PushAnswer) (put : List Word) : (s.pushAnswered rest put).mem = s.mem := rfl
@[simp] theorem State.pushAnswered_pc (s : State) (rest : List PushAnswer) (put : List Word) : (s.pushAnswered rest put).pc = s.pc := rfl
@[simp] theorem State.pushAnswered_runState (s : State) (rest : List PushAnswer) (put : List Word) : (s.pushAnswered rest put).runState = s.runState := rfl
@[simp] theorem State.pushAnswered_haltCause (s : State) (rest : List PushAnswer) (put : List Word) : (s.pushAnswered rest put).haltCause = s.haltCause := rfl
@[simp] theorem State.pushAnswered_diag (s : State) (rest : List PushAnswer) (put : List Word) : (s.pushAnswered rest put).diag = s.diag := rfl
@[simp] theorem State.pushAnswered_err (s : State) (rest : List PushAnswer) (put : List Word) : (s.pushAnswered rest put).err = s.err := rfl
@[simp] theorem State.pushAnswered_portCall (s : State) (rest : List PushAnswer) (put : List Word) : (s.pushAnswered rest put).portCall = none := rfl
@[simp] theorem State.pushAnswered_input (s : State) (rest : List PushAnswer) (put : List Word) : (s.pushAnswered rest put).input = s.input := rfl
@[simp] theorem State.pushAnswered_output (s : State) (rest : List PushAnswer) (put : List Word) : (s.pushAnswered rest put).output = { answers := rest, pushed := s.output.pushed ++ put } := rfl

/-! What `State.raise` leaves in each field. -/

@[simp] theorem State.raise_len (s : State) (f : Failure) : (s.raise f).len = s.len := rfl
@[simp] theorem State.raise_mem (s : State) (f : Failure) : (s.raise f).mem = s.mem := rfl
@[simp] theorem State.raise_pc (s : State) (f : Failure) : (s.raise f).pc = s.pc := rfl
@[simp] theorem State.raise_runState (s : State) (f : Failure) : (s.raise f).runState = .failed := rfl
@[simp] theorem State.raise_haltCause (s : State) (f : Failure) : (s.raise f).haltCause = s.haltCause := rfl
@[simp] theorem State.raise_diag (s : State) (f : Failure) : (s.raise f).diag = s.diag := rfl
@[simp] theorem State.raise_err (s : State) (f : Failure) : (s.raise f).err = recordOf f := rfl
@[simp] theorem State.raise_portCall (s : State) (f : Failure) : (s.raise f).portCall = s.portCall := rfl
@[simp] theorem State.raise_input (s : State) (f : Failure) : (s.raise f).input = s.input := rfl
@[simp] theorem State.raise_output (s : State) (f : Failure) : (s.raise f).output = s.output := rfl

/-! Reads of Memory and parameter addresses through updates that leave Memory or `pc` alone. -/

@[simp] theorem State.writeCell_readCell (s : State) (a : Nat) (v : Word) (x : Nat) :
    (s.writeCell a v).readCell x = (s.mem.write a v).read x := rfl
@[simp] theorem State.setPc_readCell (s : State) (n : Nat) (x : Nat) :
    (s.setPc n).readCell x = s.readCell x := rfl
@[simp] theorem State.snapshot_readCell (s : State) (ia : Nat) (w : Word) (x : Nat) :
    (s.snapshot ia w).readCell x = s.readCell x := rfl
@[simp] theorem State.haltWith_readCell (s : State) (c : HaltCause) (x : Nat) :
    (s.haltWith c).readCell x = s.readCell x := rfl
@[simp] theorem State.awaitPort_readCell (s : State) (c : PortCall) (x : Nat) :
    (s.awaitPort c).readCell x = s.readCell x := rfl
@[simp] theorem State.pullAnswered_readCell (s : State) (rest : List PullAnswer) (got : List Word) (x : Nat) :
    (s.pullAnswered rest got).readCell x = s.readCell x := rfl
@[simp] theorem State.pushAnswered_readCell (s : State) (rest : List PushAnswer) (put : List Word) (x : Nat) :
    (s.pushAnswered rest put).readCell x = s.readCell x := rfl
@[simp] theorem State.raise_readCell (s : State) (f : Failure) (x : Nat) :
    (s.raise f).readCell x = s.readCell x := rfl
@[simp] theorem State.snapshot_fetchWord (s : State) (ia : Nat) (w : Word) : (s.snapshot ia w).fetchWord = s.fetchWord := rfl
@[simp] theorem State.haltWith_fetchWord (s : State) (c : HaltCause) : (s.haltWith c).fetchWord = s.fetchWord := rfl
@[simp] theorem State.awaitPort_fetchWord (s : State) (c : PortCall) : (s.awaitPort c).fetchWord = s.fetchWord := rfl
@[simp] theorem State.pullAnswered_fetchWord (s : State) (rest : List PullAnswer) (got : List Word) : (s.pullAnswered rest got).fetchWord = s.fetchWord := rfl
@[simp] theorem State.pushAnswered_fetchWord (s : State) (rest : List PushAnswer) (put : List Word) : (s.pushAnswered rest put).fetchWord = s.fetchWord := rfl
@[simp] theorem State.raise_fetchWord (s : State) (f : Failure) : (s.raise f).fetchWord = s.fetchWord := rfl
@[simp] theorem State.writeCell_paramAddr (s : State) (a : Nat) (v : Word) (i : Nat) :
    (s.writeCell a v).paramAddr i = s.paramAddr i := rfl
@[simp] theorem State.snapshot_paramAddr (s : State) (ia : Nat) (w : Word) (i : Nat) :
    (s.snapshot ia w).paramAddr i = s.paramAddr i := rfl
@[simp] theorem State.haltWith_paramAddr (s : State) (c : HaltCause) (i : Nat) :
    (s.haltWith c).paramAddr i = s.paramAddr i := rfl
@[simp] theorem State.awaitPort_paramAddr (s : State) (c : PortCall) (i : Nat) :
    (s.awaitPort c).paramAddr i = s.paramAddr i := rfl
@[simp] theorem State.pullAnswered_paramAddr (s : State) (rest : List PullAnswer) (got : List Word) (i : Nat) :
    (s.pullAnswered rest got).paramAddr i = s.paramAddr i := rfl
@[simp] theorem State.pushAnswered_paramAddr (s : State) (rest : List PushAnswer) (put : List Word) (i : Nat) :
    (s.pushAnswered rest put).paramAddr i = s.paramAddr i := rfl
@[simp] theorem State.raise_paramAddr (s : State) (f : Failure) (i : Nat) :
    (s.raise f).paramAddr i = s.paramAddr i := rfl

end Sys2Proof.Machine
end

