-- ==== Sys2Proof/Laws/Ops.lean ====
section
/-! SUPPORT. One lemma per shared operation: if it answers a next state, then one of these cases holds, and they are all there
are. The resolver's own results (`readParam`, `writeAddr`, `checkAddr`) stay as they are named. -/

namespace Sys2Proof.Machine

theorem orRaise_next {α : Type} {r : Except Failure α} {s t : State} {k : α → Result}
    (h : orRaise r s k = .next t) :
    (∃ f, r = .error f ∧ t = s.raise f) ∨ (∃ x, r = .ok x ∧ k x = .next t) := by
  cases r with
  | error f => exact .inl ⟨f, rfl, by simpa [orRaise] using h.symm⟩
  | ok x => exact .inr ⟨x, rfl, h⟩

@[simp] theorem orRaise_ok {α : Type} (x : α) (s : State) (k : α → Result) : orRaise (.ok x) s k = k x := rfl

@[simp] theorem orRaise_error {α : Type} (f : Failure) (s : State) (k : α → Result) :
    orRaise (.error f : Except Failure α) s k = .next (s.raise f) := rfl

/-- An RRW instruction fails in the resolution of a parameter, first one first, or writes one cell and moves on. -/
theorem binaryInto_next {f : Word → Word → Word} {modes : List ParamMode} {s t : State}
    (h : binaryInto f modes s = .next t) :
    (∃ e, readParam s modes 0 = .error e ∧ t = s.raise e) ∨
    (∃ a e, readParam s modes 0 = .ok a ∧ readParam s modes 1 = .error e ∧ t = s.raise e) ∨
    (∃ a b e, readParam s modes 0 = .ok a ∧ readParam s modes 1 = .ok b ∧ writeAddr s 2 = .error e ∧ t = s.raise e) ∨
    (∃ a b d, readParam s modes 0 = .ok a ∧ readParam s modes 1 = .ok b ∧ writeAddr s 2 = .ok d ∧
      t = (s.writeCell d (f a b)).setPc (s.pc + 4)) := by
  unfold binaryInto at h
  rcases orRaise_next h with ⟨e, h0, rfl⟩ | ⟨a, h0, h⟩
  · exact .inl ⟨e, h0, rfl⟩
  rcases orRaise_next h with ⟨e, h1, rfl⟩ | ⟨b, h1, h⟩
  · exact .inr (.inl ⟨a, e, h0, h1, rfl⟩)
  rcases orRaise_next h with ⟨e, h2, rfl⟩ | ⟨d, h2, h⟩
  · exact .inr (.inr (.inl ⟨a, b, e, h0, h1, h2, rfl⟩))
  · exact .inr (.inr (.inr ⟨a, b, d, h0, h1, h2, (Host.Outcome.next.inj h).symm⟩))

/-- A jump fails in the resolution of a parameter, first one first; or is taken, and fails its target's check or goes there; or
is not taken. -/
theorem jumpWhen_next {taken : Word → Bool} {modes : List ParamMode} {s t : State}
    (h : jumpWhen taken modes s = .next t) :
    (∃ e, readParam s modes 0 = .error e ∧ t = s.raise e) ∨
    (∃ a e, readParam s modes 0 = .ok a ∧ readParam s modes 1 = .error e ∧ t = s.raise e) ∨
    (∃ a b e, readParam s modes 0 = .ok a ∧ readParam s modes 1 = .ok b ∧ taken a = true ∧
      checkTarget s b = .error e ∧ t = s.raise e) ∨
    (∃ a b n, readParam s modes 0 = .ok a ∧ readParam s modes 1 = .ok b ∧ taken a = true ∧
      checkTarget s b = .ok n ∧ t = s.setPc n) ∨
    (∃ a b, readParam s modes 0 = .ok a ∧ readParam s modes 1 = .ok b ∧ taken a = false ∧
      t = s.setPc (s.pc + 3)) := by
  unfold jumpWhen at h
  rcases orRaise_next h with ⟨e, h0, rfl⟩ | ⟨a, h0, h⟩
  · exact .inl ⟨e, h0, rfl⟩
  rcases orRaise_next h with ⟨e, h1, rfl⟩ | ⟨b, h1, h⟩
  · exact .inr (.inl ⟨a, e, h0, h1, rfl⟩)
  cases ht : taken a with
  | true =>
    rw [ht, if_pos rfl] at h
    rcases orRaise_next h with ⟨e, h2, rfl⟩ | ⟨n, h2, h⟩
    · exact .inr (.inr (.inl ⟨a, b, e, h0, h1, ht, h2, rfl⟩))
    · exact .inr (.inr (.inr (.inl ⟨a, b, n, h0, h1, ht, h2, (Host.Outcome.next.inj h).symm⟩)))
  | false =>
    rw [ht] at h
    exact .inr (.inr (.inr (.inr ⟨a, b, h0, h1, ht, (Host.Outcome.next.inj h).symm⟩)))

/-- A pull is not answered, or fails, or delivers a value. -/
theorem pullInto_next {dst : Nat} {s t : State} (h : pullInto dst s = .next t) :
    (s.input.answers = [] ∧ t = s.awaitPort (.pull dst)) ∨
    (∃ r rest, s.input.answers = .fail r :: rest ∧ t = (s.pullAnswered rest []).raise (.inputPort r)) ∨
    (∃ v rest, s.input.answers = .ok v :: rest ∧
      t = ((s.pullAnswered rest [v]).writeCell dst v).setPc (s.pc + 2)) := by
  unfold pullInto at h
  split at h
  · exact .inl ⟨‹_›, (Host.Outcome.next.inj h).symm⟩
  · exact .inr (.inl ⟨_, _, ‹_›, (Host.Outcome.next.inj h).symm⟩)
  · exact .inr (.inr ⟨_, _, ‹_›, (Host.Outcome.next.inj h).symm⟩)

/-- A push is not answered, or fails, or is taken. -/
theorem pushValue_next {v : Word} {s t : State} (h : pushValue v s = .next t) :
    (s.output.answers = [] ∧ t = s.awaitPort (.push v)) ∨
    (∃ r rest, s.output.answers = .fail r :: rest ∧ t = (s.pushAnswered rest []).raise (.outputPort v r)) ∨
    (∃ rest, s.output.answers = .ok :: rest ∧ t = (s.pushAnswered rest [v]).setPc (s.pc + 2)) := by
  unfold pushValue at h
  split at h
  · exact .inl ⟨‹_›, (Host.Outcome.next.inj h).symm⟩
  · exact .inr (.inl ⟨_, _, ‹_›, (Host.Outcome.next.inj h).symm⟩)
  · exact .inr (.inr ⟨_, ‹_›, (Host.Outcome.next.inj h).symm⟩)

/-- An address check passes for exactly the addresses of cells. -/
theorem checkAddr_ok {s : State} {role : AddressRole} {i n : Nat} {raw : Word}
    (h : checkAddr s role i raw = .ok n) : 0 ≤ raw.toInt ∧ raw.toInt < s.len ∧ n = raw.toNat := by
  unfold checkAddr at h
  split_ifs at h with hneg hbig
  exact ⟨by omega, by omega, (Except.ok.inj h).symm⟩

/-- What a step can be: the terminating check, a decode failure, an instruction, or an outstanding port call going on. -/
theorem step_next {s t : State} (h : step s = .next t) :
    s.runState = .running ∧
    ((s.portCall = none ∧ s.len ≤ s.pc ∧ t = s.haltWith .ranOffEnd) ∨
     (s.portCall = none ∧ s.pc < s.len ∧ ∃ sub, decode s.fetchWord = .error sub ∧
        t = (s.snapshot s.pc s.fetchWord).raise (.decode sub s.fetchWord)) ∨
     (s.portCall = none ∧ s.pc < s.len ∧ ∃ i, decode s.fetchWord = .ok i ∧
        exec i (s.snapshot s.pc s.fetchWord) = .next t) ∨
     (∃ c, s.portCall = some c ∧ continueCall c s = .next t)) := by
  unfold step engineMove at h
  split at h
  · cases h
  · cases h
  · refine ⟨‹_›, ?_⟩
    split at h
    · exact .inr (.inr (.inr ⟨_, ‹_›, h⟩))
    · rename_i hcall
      unfold runCycle at h
      split_ifs at h with hlen
      · exact .inl ⟨hcall, hlen, (Host.Outcome.next.inj h).symm⟩
      · have hlt : s.pc < s.len := by omega
        split at h
        · exact .inr (.inl ⟨hcall, hlt, _, ‹_›, (Host.Outcome.next.inj h).symm⟩)
        · exact .inr (.inr (.inl ⟨hcall, hlt, _, ‹_›, h⟩))

end Sys2Proof.Machine
end

