-- ==== Sys2Proof/Laws/Exec.lean ====
section
/-! SUPPORT. What an instruction can do, said once for all nine: every later proof over `exec` cites this inversion instead of
unfolding a meaning. -/

namespace Sys2Proof.Machine

/-- Whether `i` is a jump that is taken on the first operand `a` (43_jumps.md R110, R111). -/
def jumpTaken : Instr → Word → Bool
  | .jumpIfTrue _, a => condTrue a
  | .jumpIfFalse _, a => condFalse a
  | .add _, _ => false
  | .mul _, _ => false
  | .input _, _ => false
  | .output _, _ => false
  | .less _, _ => false
  | .equal _, _ => false
  | .halt _, _ => false

/-- The failure `e` came from the resolution of a parameter of `i`, or from the target of the taken jump `i`. -/
def ResolutionFails (i : Instr) (s : State) (e : Failure) : Prop :=
  (i.params.head? = some .read ∧ readParam s i.modes 0 = .error e) ∨
  (i.params.take 2 = [.read, .read] ∧ (∃ a, readParam s i.modes 0 = .ok a) ∧ readParam s i.modes 1 = .error e) ∨
  (i.params = [.read, .read, .write] ∧ (∃ a, readParam s i.modes 0 = .ok a) ∧ (∃ b, readParam s i.modes 1 = .ok b) ∧
    writeAddr s 2 = .error e) ∨
  (i.params = [.write] ∧ writeAddr s 0 = .error e) ∨
  (i.params = [.read, .read] ∧ (∃ a, readParam s i.modes 0 = .ok a ∧ jumpTaken i a = true) ∧
    ∃ b, readParam s i.modes 1 = .ok b ∧ checkTarget s b = .error e)

/-- What one instruction can do, and all it can do. -/
inductive ExecEffect (i : Instr) (s : State) : State → Prop where
  /-- A failure of resolution: its entry and nothing else. -/
  | failed (e : Failure) (h : ResolutionFails i s e) : ExecEffect i s (s.raise e)
  /-- An RRW instruction stores one word and advances by its length. -/
  | stored (a b v : Word) (d : Nat) (hp : i.params = [.read, .read, .write])
      (h0 : readParam s i.modes 0 = .ok a) (h1 : readParam s i.modes 1 = .ok b) (h2 : writeAddr s 2 = .ok d) :
      ExecEffect i s ((s.writeCell d v).setPc (s.pc + 4))
  /-- A taken jump goes to its checked target. -/
  | jumped (a b : Word) (n : Nat) (hp : i.params = [.read, .read])
      (h0 : readParam s i.modes 0 = .ok a) (h1 : readParam s i.modes 1 = .ok b) (ht : jumpTaken i a = true)
      (h2 : checkTarget s b = .ok n) :
      ExecEffect i s (s.setPc n)
  /-- A jump not taken advances by its length. -/
  | passed (a b : Word) (hp : i.params = [.read, .read])
      (h0 : readParam s i.modes 0 = .ok a) (h1 : readParam s i.modes 1 = .ok b) (ht : jumpTaken i a = false) :
      ExecEffect i s (s.setPc (s.pc + 3))
  /-- An Input whose destination passed makes its pull. -/
  | pulled (modes : List ParamMode) (d : Nat) (t : State) (hi : i = .input modes) (h0 : writeAddr s 0 = .ok d)
      (h : pullInto d s = .next t) : ExecEffect i s t
  /-- An Output whose parameter resolved makes its push. -/
  | pushed (modes : List ParamMode) (v : Word) (t : State) (hi : i = .output modes) (h0 : readParam s modes 0 = .ok v)
      (h : pushValue v s = .next t) : ExecEffect i s t
  /-- Halt. -/
  | halted (modes : List ParamMode) (hi : i = .halt modes) :
      ExecEffect i s ((s.haltWith .explicitHalt).setPc (s.pc + 1))

theorem binaryInto_effect {i : Instr} {f : Word → Word → Word} {s t : State} (hp : i.params = [.read, .read, .write])
    (h : binaryInto f i.modes s = .next t) : ExecEffect i s t := by
  rcases binaryInto_next h with ⟨e, h0, rfl⟩ | ⟨a, e, h0, h1, rfl⟩ | ⟨a, b, e, h0, h1, h2, rfl⟩ | ⟨a, b, d, h0, h1, h2, rfl⟩
  · exact .failed e (.inl ⟨by simp [hp], h0⟩)
  · exact .failed e (.inr (.inl ⟨by simp [hp], ⟨a, h0⟩, h1⟩))
  · exact .failed e (.inr (.inr (.inl ⟨hp, ⟨a, h0⟩, ⟨b, h1⟩, h2⟩)))
  · exact .stored a b _ d hp h0 h1 h2

theorem jumpWhen_effect {i : Instr} {s t : State} (hp : i.params = [.read, .read])
    (h : jumpWhen (jumpTaken i) i.modes s = .next t) : ExecEffect i s t := by
  rcases jumpWhen_next h with ⟨e, h0, rfl⟩ | ⟨a, e, h0, h1, rfl⟩ | ⟨a, b, e, h0, h1, ht, h2, rfl⟩ |
    ⟨a, b, n, h0, h1, ht, h2, rfl⟩ | ⟨a, b, h0, h1, ht, rfl⟩
  · exact .failed e (.inl ⟨by simp [hp], h0⟩)
  · exact .failed e (.inr (.inl ⟨by simp [hp], ⟨a, h0⟩, h1⟩))
  · exact .failed e (.inr (.inr (.inr (.inr ⟨hp, ⟨a, h0, ht⟩, b, h1, h2⟩))))
  · exact .jumped a b n hp h0 h1 ht h2
  · exact .passed a b hp h0 h1 ht

/-- If an instruction answers a next state, it did one of these. -/
theorem exec_effect {i : Instr} {s t : State} (h : exec i s = .next t) : ExecEffect i s t := by
  cases i with
  | add modes => exact binaryInto_effect (i := .add modes) rfl h
  | mul modes => exact binaryInto_effect (i := .mul modes) rfl h
  | less modes => exact binaryInto_effect (i := .less modes) rfl h
  | equal modes => exact binaryInto_effect (i := .equal modes) rfl h
  | jumpIfTrue modes => exact jumpWhen_effect (i := .jumpIfTrue modes) rfl h
  | jumpIfFalse modes => exact jumpWhen_effect (i := .jumpIfFalse modes) rfl h
  | halt modes => cases h; exact .halted modes rfl
  | input modes =>
    rcases orRaise_next h with ⟨e, h0, rfl⟩ | ⟨d, h0, h⟩
    · exact .failed e (.inr (.inr (.inr (.inl ⟨rfl, h0⟩))))
    · exact .pulled modes d t rfl h0 h
  | output modes =>
    rcases orRaise_next h with ⟨e, h0, rfl⟩ | ⟨v, h0, h⟩
    · exact .failed e (.inl ⟨rfl, h0⟩)
    · exact .pushed modes v t rfl h0 h

end Sys2Proof.Machine
end

