-- ==== Sys2Proof/Laws/PerInstr.lean ====
section
/-! SUPPORT. Statements about every instruction as syntax, one lemma per constructor. -/

namespace Sys2Proof.Laws.EncodedFields

/-- The digits of a mode list of `n` entries make a number below `10^n`; in fact one of ones and zeros. -/
theorem modesValue_bound (ms : List ParamMode) : 9 * modesValue ms < 10 ^ ms.length := by
  induction ms with
  | nil => simp [modesValue]
  | cons m ms ih =>
    simp only [modesValue, List.length_cons, pow_succ]
    cases m <;> simp only [ParamMode.digitValue] <;> omega

theorem modesValue_small {ms : List ParamMode} (h : modesFit ms = true) : modesValue ms ≤ 11111111 := by
  have hlen : ms.length ≤ 8 := of_decide_eq_true h
  have hb := modesValue_bound ms
  have : 10 ^ ms.length ≤ 10 ^ 8 := Nat.pow_le_pow_right (by norm_num) hlen
  omega

/-- The word of an instruction whose modes fit reads back, in decimal, as its two fields (30_encoding.md R51, R64), and is not
negative. -/
theorem of_opNumber {i : Instr} (hop : i.opNumber < 100) (h : modesFit i.modes = true) :
    (encode i).toNat % 100 = i.opNumber ∧ (encode i).toNat / 100 = modesValue i.modes ∧ 0 ≤ (encode i).toInt := by
  have hsmall := modesValue_small h
  have hval : (encode i).toNat = i.opNumber + 100 * modesValue i.modes := by
    simp only [encode, Instr.wordValue, BitVec.toNat_ofNat]
    exact Nat.mod_eq_of_lt (by omega)
  refine ⟨by omega, by omega, ?_⟩
  rw [BitVec.toInt_eq_toNat_of_lt (by omega)]
  omega

/-- For every instruction: if its mode list fits, its encoded word holds its opcode number and its mode digits and is not
negative. -/
def Statement (i : Instr) : Prop :=
  modesFit i.modes = true →
    (encode i).toNat % 100 = i.opNumber ∧ (encode i).toNat / 100 = modesValue i.modes ∧ 0 ≤ (encode i).toInt

theorem add (modes : List ParamMode) : Statement (.add modes) := of_opNumber (by simp [Instr.opNumber])
theorem mul (modes : List ParamMode) : Statement (.mul modes) := of_opNumber (by simp [Instr.opNumber])
theorem input (modes : List ParamMode) : Statement (.input modes) := of_opNumber (by simp [Instr.opNumber])
theorem output (modes : List ParamMode) : Statement (.output modes) := of_opNumber (by simp [Instr.opNumber])
theorem jumpIfTrue (modes : List ParamMode) : Statement (.jumpIfTrue modes) := of_opNumber (by simp [Instr.opNumber])
theorem jumpIfFalse (modes : List ParamMode) : Statement (.jumpIfFalse modes) := of_opNumber (by simp [Instr.opNumber])
theorem less (modes : List ParamMode) : Statement (.less modes) := of_opNumber (by simp [Instr.opNumber])
theorem equal (modes : List ParamMode) : Statement (.equal modes) := of_opNumber (by simp [Instr.opNumber])
theorem halt (modes : List ParamMode) : Statement (.halt modes) := of_opNumber (by simp [Instr.opNumber])

end Sys2Proof.Laws.EncodedFields
end

