-- ==== Sys2Proof/Tests/Slice0.lean ====
section
/-! SUPPORT. The model's own tests, each one step or one word, with the expected result taken from spec/ (the section is named);
then a concrete witness for the hypotheses of every statement that has some. -/

namespace Sys2Proof.Tests

open Sys2Proof Sys2Proof.Machine

/-- Reset with an image and the ports' answers, as 95_test_vectors.md starts its runs. -/
def boot (img : List Word) (pulls : List PullAnswer := []) (pushes : List PushAnswer := []) : State :=
  (State.load img pulls pushes).getD State.reset

/-- The next state of a step, if there is one. -/
def nextOf : Result → Option State
  | .next t => some t
  | .fault _ => none
  | .refused _ => none

/-- The cells of Memory, in order. -/
def cells (s : State) : List Word := (List.range s.len).map s.readCell

/-- `run_state`, `halt_cause`, `pc` and Memory after one step. -/
def stepView (s : State) : Option (RunState × HaltCause × Nat × List Word) :=
  (nextOf (step s)).map fun t => (t.runState, t.haltCause, t.pc, cells t)

/-- `run_state`, `pc`, Memory, the snapshot and the record after one step. -/
def failView (s : State) : Option (RunState × Nat × List Word × Snapshot × FailureRecord) :=
  (nextOf (step s)).map fun t => (t.runState, t.pc, cells t, t.diag, t.err)

/-- An Addressing record, written out as 60_exceptions.md R143 gives it. -/
def addrRecord (sub : ErrSub) (role : ErrRole) (param : Nat) (value : Word) : FailureRecord :=
  { kind := .addressing, sub := sub, role := role, param := param, valueValid := true, value := value, ioReason := none }

/-! WellFormed refuses an ill-formed term by each of its checks (30_encoding.md R56, R58). -/

theorem test_nine_modes_do_not_fit : modesFit (List.replicate 9 .immediate) = false := by decide
theorem test_nine_modes_ill_formed : (Instr.add (List.replicate 9 .immediate)).wellFormed = false := by decide
theorem test_eight_modes_well_formed : (Instr.add (List.replicate 8 .immediate)).wellFormed = true := by decide
theorem test_trailing_position_refused : modesEndImmediate [.immediate, .position] = false := by decide
theorem test_trailing_position_ill_formed : (Instr.output [.immediate, .position]).wellFormed = false := by decide

/-! Decoding (95_test_vectors.md V1; 30_encoding.md R62). Each word is written out from its decimal digits. -/

theorem test_decode_add : decode (1 + 100 * (0 + 10 * 1)) = .ok (.add [.position, .immediate]) := by decide
theorem test_decode_add_excess : decode 1111111101 = .ok (.add (List.replicate 8 .immediate)) := by decide
theorem test_decode_mul : decode 1002 = .ok (.mul [.position, .immediate]) := by decide
theorem test_decode_input : decode 103 = .ok (.input [.immediate]) := by decide
theorem test_decode_output : decode 1000004 = .ok (.output [.position, .position, .position, .position, .immediate]) := by decide
theorem test_decode_jump_if_true : decode 1005 = .ok (.jumpIfTrue [.position, .immediate]) := by decide
theorem test_decode_jump_if_false : decode 1106 = .ok (.jumpIfFalse [.immediate, .immediate]) := by decide
theorem test_decode_less : decode 1107 = .ok (.less [.immediate, .immediate]) := by decide
theorem test_decode_equal : decode 108 = .ok (.equal [.immediate]) := by decide
theorem test_decode_halt : decode 199 = .ok (.halt [.immediate]) := by decide
theorem test_decode_negative : decode (-5) = .error .negativeWord ∧ decode (-2147483648) = .error .negativeWord := by decide
theorem test_decode_bad_opcode : decode 0 = .error .badOpcode ∧ decode 9 = .error .badOpcode ∧ decode 2100 = .error .badOpcode ∧
    decode 2147483647 = .error .badOpcode := by decide
theorem test_decode_bad_mode : decode 299 = .error .badMode ∧ decode 20004 = .error .badMode ∧ decode 2147483601 = .error .badMode ∧
    decode 2000000001 = .error .badMode ∧ decode 1211111101 = .error .badMode := by decide
/-- 30_encoding.md R64: `0: Mul [4], #3, [4]` assembles to `1002,4,3,4`. -/
theorem test_assemble_mul : assemble (.mul [.position, .immediate]) [4, 3, 4] = [1002, 4, 3, 4] := by decide
/-- The host's hooks: the table's numbering of a whole instruction, and its first step after reset. -/
theorem test_table_word : decodeTableWord 32 1101 = some (.add [.immediate, .immediate]) := by decide
theorem test_placed_word_runs : stepView (State.reset.withFetchWord 128 (1101 + 2 * 2 ^ 32 + 3 * 2 ^ 64)) =
    some (.running, .none, 4, [5, 2, 3, 0]) := by decide

/-! One step of each instruction (95_test_vectors.md, the entry named). -/

/-- V3: `[1,0,0,0,99]` overwrites its own instruction word after using it. -/
theorem test_add_own_word : stepView (boot [1, 0, 0, 0, 99]) = some (.running, .none, 4, [2, 0, 0, 0, 99]) := by decide
/-- P5: the sum wraps. -/
theorem test_add_wraps : stepView (boot [1101, 2147483647, 1, 5, 99, 0]) =
    some (.running, .none, 4, [1101, 2147483647, 1, 5, 99, -2147483648]) := by decide
/-- S1, first cycle. -/
theorem test_mul_mixed_modes : stepView (boot [1002, 4, 3, 4, 33]) = some (.running, .none, 4, [1002, 4, 3, 4, 99]) := by decide
/-- V3: the product wraps. -/
theorem test_mul_wraps : stepView (boot [1102, 46341, 46341, 5, 99, 0]) =
    some (.running, .none, 4, [1102, 46341, 46341, 5, 99, -2147479015]) := by decide
/-- V4: the Immediate digit of the write parameter is not consulted. -/
theorem test_input_immediate_digit : stepView (boot [103, 3, 99, 0] [.ok 42]) =
    some (.running, .none, 2, [103, 3, 99, 42]) := by decide
/-- S6: an exhausted input port. -/
theorem test_input_fails : failView (boot [3, 0, 99] [.fail ⟨7⟩]) =
    some (.failed, 0, [3, 0, 99], ⟨true, 0, 3⟩,
      { kind := .ioPort, sub := .inputPort, role := .none, param := 0, valueValid := false, value := 0, ioReason := some ⟨7⟩ }) := by
  decide
/-- V4: a negative literal is pushed. -/
theorem test_output_pushes : (nextOf (step (boot [104, -77, 99] [] [.ok]))).map (fun t => (t.pc, t.output.pushed)) =
    some (2, [-77]) := by decide
/-- V4: the failed push adds nothing to the history. -/
theorem test_output_fails : (nextOf (step (boot [104, 6, 99] [] [.fail ⟨1⟩]))).map (fun t => (t.pc, t.output.pushed, t.err)) =
    some (0, [], { kind := .ioPort, sub := .outputPort, role := .none, param := 0, valueValid := true, value := 6,
                   ioReason := some ⟨1⟩ }) := by decide
/-- V5: both operands in Position mode. -/
theorem test_jump_if_true_position : stepView (boot [5, 4, 5, 99, 1, 3]) = some (.running, .none, 3, [5, 4, 5, 99, 1, 3]) := by decide
/-- V5: not taken, the bad target is not checked. -/
theorem test_jump_if_true_not_taken : stepView (boot [1105, 0, -7, 99]) = some (.running, .none, 3, [1105, 0, -7, 99]) := by decide
/-- V5: taken, a negative target. -/
theorem test_jump_if_false_bad_target : failView (boot [1106, 0, -2, 99]) =
    some (.failed, 0, [1106, 0, -2, 99], ⟨true, 0, 1106⟩, addrRecord .negativeAddress .jumpTarget 1 (-2)) := by decide
/-- V5: not taken, yet the dereference of parameter 1 is made and fails. -/
theorem test_jump_resolves_both : failView (boot [5, 4, 9, 99, 0]) =
    some (.failed, 0, [5, 4, 9, 99, 0], ⟨true, 0, 5⟩, addrRecord .outOfBounds .readDeref 1 9) := by decide
/-- V6: signed and exact at the extremes. -/
theorem test_less_extremes : stepView (boot [1107, -2147483648, 2147483647, 5, 99, 7]) =
    some (.running, .none, 4, [1107, -2147483648, 2147483647, 5, 99, 1]) := by decide
/-- V6: equal operands are not less; the 0 is written. -/
theorem test_less_equal_operands : stepView (boot [1107, 5, 5, 5, 99, 7]) =
    some (.running, .none, 4, [1107, 5, 5, 5, 99, 0]) := by decide
/-- V6. -/
theorem test_equal_minus_one : stepView (boot [1108, -1, -1, 5, 99, 7]) =
    some (.running, .none, 4, [1108, -1, -1, 5, 99, 1]) := by decide
/-- V7: Halt with an excess mode digit. -/
theorem test_halt_excess_digit : stepView (boot [199]) = some (.halted, .explicitHalt, 1, [199]) := by decide

/-! The cycle and the failures. -/

/-- V7: the empty program ends at once. -/
theorem test_empty_program : stepView (boot []) = some (.halted, .ranOffEnd, 0, []) := by decide
/-- S4. -/
theorem test_negative_word_fails : failView (boot [-5]) =
    some (.failed, 0, [-5], ⟨true, 0, -5⟩,
      { kind := .decode, sub := .negativeWord, role := .none, param := 0, valueValid := true, value := -5, ioReason := none }) := by
  decide
/-- V8: parameter 0 before the missing third parameter word. -/
theorem test_first_parameter_first : failView (boot [1, -1, 9]) =
    some (.failed, 0, [1, -1, 9], ⟨true, 0, 1⟩, addrRecord .negativeAddress .readDeref 0 (-1)) := by decide
/-- V2: the third parameter's cell is missing. -/
theorem test_missing_parameter_cell : failView (boot [1101, 5, 6]) =
    some (.failed, 0, [1101, 5, 6], ⟨true, 0, 1101⟩, addrRecord .outOfBounds .operandFetch 2 3) := by decide
/-- S5: the destination equal to LEN. -/
theorem test_write_out_of_range : failView (boot [1, 0, 0, 5, 99]) =
    some (.failed, 0, [1, 0, 0, 5, 99], ⟨true, 0, 1⟩, addrRecord .outOfBounds .writeDest 2 5) := by decide
/-- V4: a bad destination pulls nothing. -/
theorem test_bad_destination_pulls_nothing : (nextOf (step (boot [3, 7, 99] [.ok 42]))).map
    (fun t => (t.err, t.input.answers)) = some (addrRecord .outOfBounds .writeDest 0 7, [.ok 42]) := by decide
/-- 42_io.md R105: an unanswered pull waits, Running, nothing committed but the snapshot. -/
theorem test_unanswered_pull_waits : (nextOf (step (boot [3, 0, 99]))).map
    (fun t => (t.runState, t.pc, cells t, t.diag, t.portCall)) =
    some (.running, 0, [3, 0, 99], ⟨true, 0, 3⟩, some (.pull 0)) := by decide
/-- 10_state.md R19, R26: the codes the host reads after S5's first instance (95_test_vectors.md V9: ERR_KIND = 2). -/
theorem test_status_codes : (nextOf (step (boot [1, 0, 0, 5, 99]))).map
    (fun t => [t.readStatus 0, t.readStatus 6, t.readStatus 7, t.readStatus 8, t.readStatus 9, t.readStatus 10]) =
    some [some (.number 2), some (.number 2), some (.number 2), some (.number 3), some (.number 2), some (.number 1)] := by decide

/-! Witnesses: states and operands that meet the hypotheses of the statements. -/

/-- NegativeWordsFailFirst and IllegalWordsFailExactly: both sides, at the boundary words. -/
theorem witness_negative_word : (-1 : Word).toInt < 0 ∧ ¬ (0 : Word).toInt < 0 := by decide
/-- ModeDigitsAreZeroOrOne: a word each of whose digits is 0 or 1, and one with a digit 2. -/
theorem witness_mode_digits : (0 : Int) ≤ (1001 : Word).toInt ∧ (opcodeOf ((1001 : Word).toNat % 100)).isSome = true ∧
    (∀ k, digit ((1001 : Word).toNat / 100) k ≤ 1) ∧ (0 : Int) ≤ (2001 : Word).toInt ∧
    (opcodeOf ((2001 : Word).toNat % 100)).isSome = true ∧ 2 ≤ digit ((2001 : Word).toNat / 100) 1 := by
  refine ⟨by decide, by decide, ?_, by decide, by decide, by decide⟩
  intro k
  match k with
  | 0 => decide
  | 1 => decide
  | k + 2 =>
    have : (10 : Nat) < 10 ^ (k + 2) := by
      have := Nat.pow_le_pow_right (n := 10) (by norm_num) (Nat.le_add_left 2 k)
      omega
    have h : digit ((1001 : Word).toNat / 100) (k + 2) = 0 := by
      show 10 / 10 ^ (k + 2) % 10 = 0
      rw [Nat.div_eq_of_lt this]
    omega
/-- ModeListHasOneEntryPerDigit and DecodedWordEncodesBack. -/
theorem witness_decoded : decode 1001 = .ok (.add [.position, .immediate]) ∧ decode 99 = .ok (.halt []) := by decide
/-- IllegalWordsFailExactly: a Running state at a fetch, and mode lists that differ in the W digit only. -/
theorem witness_fetch_point : (boot [0]).runState = .running ∧ (boot [0]).portCall = none ∧ (boot [0]).pc < (boot [0]).len ∧
    modeOf [.immediate, .position, .immediate] 0 = modeOf [.immediate] 0 ∧
    modeOf [.immediate, .position, .immediate] 1 = modeOf [.immediate] 1 := by decide
/-- EncodedInstructionDecodesBack. -/
theorem witness_well_formed : (Instr.equal [.position, .immediate]).wellFormed = true := by decide
/-- PlacedWordIsTheOneRun. -/
theorem witness_placed : State.reset.mem.wf = true ∧ decodeTableWord 8 99 = some (.halt []) := by decide
/-- WriteChangesExactlyOneCell and MemoriesThatReadAlikeAreEqual: a memory with entries, and one that reads like it. -/
theorem witness_memory : (boot [1, 0, 0, 5, 99]).mem.wf = true ∧
    ((boot [1, 0, 0, 5, 99]).writeCell 3 5).mem.wf = true ∧
    ∀ a, ((boot [1, 0, 0, 5, 99]).writeCell 3 5).mem.read a = (boot [1, 0, 0, 5, 99]).mem.read a := by
  refine ⟨by decide, by decide, ?_⟩
  rw [show ((boot [1, 0, 0, 5, 99]).writeCell 3 5).mem = (boot [1, 0, 0, 5, 99]).mem by decide]
  exact fun _ => rfl
/-- StoreIsSeenByTheNextFetch and the completion clause of RrwRule: the destination is the next instruction's cell. -/
theorem witness_store : (boot [1101, 50, 49, 4, 0] [.ok 9]).mem.wf = true ∧
    ReadsAs (boot [1101, 50, 49, 4, 0] [.ok 9]) [.immediate, .immediate] 0 50 ∧
    ReadsAs (boot [1101, 50, 49, 4, 0] [.ok 9]) [.immediate, .immediate] 1 49 ∧
    WritesTo (boot [1101, 50, 49, 4, 0] [.ok 9]) 2 4 ∧
    (nextOf (exec (.add [.immediate, .immediate]) (boot [1101, 50, 49, 4, 0] [.ok 9]))).map State.pc = some 4 := by
  unfold ReadsAs WritesTo State.paramPresent State.paramWord State.isAddress
  decide
/-- StoreIsSeenByTheNextFetch, the clause of Input: an Input near the end of Memory whose destination is the next instruction's
cell. -/
theorem witness_store_input : (boot [3, 2, 99] [.ok 9]).mem.wf = true ∧ WritesTo (boot [3, 2, 99] [.ok 9]) 0 2 ∧
    (boot [3, 2, 99] [.ok 9]).input.answers = [.ok 9] ∧
    (nextOf (exec (.input []) (boot [3, 2, 99] [.ok 9]))).map State.pc = some 2 := by
  unfold WritesTo State.paramPresent State.paramWord State.isAddress
  decide
/-- BadAddressesAreNeverRepaired: the addresses just outside Memory, an instruction that does not fail, and a run. -/
theorem witness_bad_address : (nextOf (exec (.output []) (boot [4, 2, 99] [] [.ok]))).map State.runState = some .running ∧
    (boot [4, 2, 99] [] [.ok]).runState ≠ .failed ∧ (Instr.output []).params[0]? = some .read ∧
    modeOf (Instr.output []).modes 0 = .position ∧ ¬ (boot [99]).isAddress 1 ∧ ¬ (boot [99]).isAddress (-1) ∧ (boot [99]).isAddress 0 ∧
    (nextOf (Host.Core.run core 1 (boot [99]))).isSome = true := by
  unfold State.isAddress
  decide
/-- AdditionWrapsByOneModulus: each case at its boundary. -/
theorem witness_sum_cases : 2147483647 < (2147483647 : Word).toInt + (1 : Word).toInt ∧
    (-2147483648 : Word).toInt + (-1 : Word).toInt < -2147483648 ∧
    (2147483647 : Word).toInt + (0 : Word).toInt ≤ 2147483647 ∧ -2147483648 ≤ (-2147483648 : Word).toInt + (0 : Word).toInt := by
  decide
/-- ComparisonsAreSignedAndExact: each clause at the edge between the cases. -/
theorem witness_comparison_cases : (4 : Word).toInt < (5 : Word).toInt ∧ (5 : Word).toInt ≤ (5 : Word).toInt ∧
    (5 : Word).toInt = (5 : Word).toInt ∧ (4 : Word).toInt ≠ (5 : Word).toInt := by decide
/-- ModeOfAParameter: an entry, and the first position beyond the list. -/
theorem witness_mode_entry : [ParamMode.immediate][0]? = some .immediate ∧ [ParamMode.immediate].length ≤ 1 := by decide
/-- The failure clause of RrwRule, at each place a failure can come from. -/
theorem witness_rrw_failures :
    RrwFails (boot [1, 4, 0, 0]) [] (.addressing .outOfBounds .readDeref 0 4) ∧
    RrwFails (boot [1, 0, -1, 0]) [] (.addressing .negativeAddress .readDeref 1 (-1)) ∧
    RrwFails (boot [1101, 5, 6]) [.immediate, .immediate] (.addressing .outOfBounds .operandFetch 2 3) ∧
    RrwFails (boot [1101, 1, 1, 4]) [.immediate, .immediate] (.addressing .outOfBounds .writeDest 2 4) := by
  refine ⟨.inl (.inl ?_), .inl (.inr ⟨⟨1, ?_⟩, ?_⟩), .inr ⟨⟨5, ?_⟩, ⟨6, ?_⟩, ?_⟩, .inr ⟨⟨1, ?_⟩, ⟨1, ?_⟩, ?_⟩⟩ <;>
    first
      | (unfold ReadFails State.paramPresent State.paramWord; decide)
      | (unfold WriteFails State.paramPresent State.paramWord; decide)
      | (unfold ReadsAs State.paramPresent State.paramWord State.isAddress; decide)
/-- InputFollowsItsRule: the destination is the last cell, with each answer; and a destination one past it. -/
theorem witness_input : WritesTo (boot [3, 2, 99] [.ok 42]) 0 2 ∧ (boot [3, 2, 99] [.ok 42]).input.answers = [.ok 42] ∧
    WritesTo (boot [3, 2, 99] [.fail ⟨0⟩]) 0 2 ∧ (boot [3, 2, 99] [.fail ⟨0⟩]).input.answers = [.fail ⟨0⟩] ∧
    WriteFails (boot [3, 3, 99] [.ok 42]) 0 (.addressing .outOfBounds .writeDest 0 3) := by
  unfold WritesTo WriteFails State.paramPresent State.paramWord State.isAddress
  decide
/-- OutputFollowsItsRule: the operand is the last cell, with each answer; and an address one past it. -/
theorem witness_output : ReadsAs (boot [4, 2, 99] [] [.ok]) [] 0 99 ∧ (boot [4, 2, 99] [] [.ok]).output.answers = [.ok] ∧
    ReadsAs (boot [4, 2, 99] [] [.fail ⟨0⟩]) [] 0 99 ∧ (boot [4, 2, 99] [] [.fail ⟨0⟩]).output.answers = [.fail ⟨0⟩] ∧
    ReadFails (boot [4, 3, 99] [] [.ok]) [] 0 (.addressing .outOfBounds .readDeref 0 3) := by
  unfold ReadsAs ReadFails State.paramPresent State.paramWord State.isAddress
  decide
/-- JumpRule: taken to the last cell, not taken, and a taken jump to LEN and to -1; an operand that does not resolve. -/
theorem witness_jump :
    (ReadsAs (boot [1105, 1, 3, 99]) [.immediate, .immediate] 0 1 ∧ ReadsAs (boot [1105, 1, 3, 99]) [.immediate, .immediate] 1 3 ∧
      (1 : Word).toInt ≠ 0 ∧ (boot [1105, 1, 3, 99]).isAddress 3) ∧
    (ReadsAs (boot [1105, 0, 4, 99]) [.immediate, .immediate] 0 0 ∧ ReadsAs (boot [1105, 0, 4, 99]) [.immediate, .immediate] 1 4 ∧
      (0 : Word).toInt = 0) ∧
    TargetFails (boot [1105, 1, 3]) 3 (.addressing .outOfBounds .jumpTarget 1 3) ∧
    TargetFails (boot [1106, 0, -1]) (-1) (.addressing .negativeAddress .jumpTarget 1 (-1)) ∧
    TwoReadsFail (boot [5, 3, 0]) [] (.addressing .outOfBounds .readDeref 0 3) := by
  unfold TwoReadsFail
  refine ⟨?_, ?_, ?_, ?_, .inl ?_⟩ <;>
    first
      | (unfold TargetFails; decide)
      | (unfold ReadFails State.paramPresent State.paramWord; decide)
      | (unfold ReadsAs State.paramPresent State.paramWord State.isAddress; decide)
/-- The frames: each instruction answers a next state on a canonical memory, the storing ones with and without a destination. -/
theorem witness_frames : (boot [1, 0, 0, 0, 99]).mem.wf = true ∧
    (nextOf (exec (.mul []) (boot [1, 0, 0, 0, 99]))).isSome = true ∧ writeAddr (boot [1, 0, 0, 0, 99]) 2 = .ok 0 ∧
    writeAddr (boot [1, 0, 0, 5, 99]) 2 = .error (.addressing .outOfBounds .writeDest 2 5) ∧
    (nextOf (exec (.input []) (boot [3, 2, 99] [.ok 42]))).isSome = true ∧ writeAddr (boot [3, 2, 99] [.ok 42]) 0 = .ok 2 ∧
    (nextOf (exec (.output []) (boot [4, 2, 99] [] [.ok]))).isSome = true ∧
    (nextOf (exec (.halt []) (boot [99]))).isSome = true := by decide
/-- InputChangesOneCell, its last clause: no value is delivered. -/
theorem witness_no_value (v : Word) (rest : List PullAnswer) : (boot [3, 0, 99]).input.answers ≠ .ok v :: rest :=
  fun h => by cases (show ([] : List PullAnswer) = .ok v :: rest from h)
/-- DecodeFailureRecordsTheWord. -/
theorem witness_decode_failure : (boot [-5]).runState = .running ∧ (boot [-5]).portCall = none ∧ (boot [-5]).pc < (boot [-5]).len ∧
    decode (boot [-5]).fetchWord = .error .negativeWord := by decide
/-- PortFailureRecordsTheReason, the clauses of a fetched Input (destination the last cell) and a fetched Output. -/
theorem witness_port_failure : (boot [3, 2, 99] [.fail ⟨7⟩]).runState = .running ∧ (boot [3, 2, 99] [.fail ⟨7⟩]).portCall = none ∧
    (boot [3, 2, 99] [.fail ⟨7⟩]).fetches (.input []) ∧ WritesTo (boot [3, 2, 99] [.fail ⟨7⟩]) 0 2 ∧
    (boot [3, 2, 99] [.fail ⟨7⟩]).input.answers = [.fail ⟨7⟩] ∧
    (boot [4, 2, 99] [] [.fail ⟨1⟩]).runState = .running ∧ (boot [4, 2, 99] [] [.fail ⟨1⟩]).portCall = none ∧
    (boot [4, 2, 99] [] [.fail ⟨1⟩]).fetches (.output []) ∧ ReadsAs (boot [4, 2, 99] [] [.fail ⟨1⟩]) [] 0 99 ∧
    (boot [4, 2, 99] [] [.fail ⟨1⟩]).output.answers = [.fail ⟨1⟩] := by
  unfold State.fetches WritesTo ReadsAs State.paramPresent State.paramWord State.isAddress
  decide
/-- PortFailureRecordsTheReason, the clauses of a call waited for: each port's failing answer comes after the wait. -/
theorem witness_port_failure_waited :
    (nextOf (step (boot [3, 2, 99]))).map (fun t => (t.runState, t.portCall, (t.offerPull (.fail ⟨7⟩)).input.answers)) =
      some (.running, some (.pull 2), [.fail ⟨7⟩]) ∧
    (nextOf (step (boot [4, 2, 99]))).map (fun t => (t.runState, t.portCall, (t.offerPush (.fail ⟨1⟩)).output.answers)) =
      some (.running, some (.push 99), [.fail ⟨1⟩]) := by decide

/-- The invariant holds of a concrete state whose first cycle fails: a jump to LEN. -/
theorem witness_inv_failing : (boot [1105, 1, 3]).Inv where
  memWf := by decide
  memBelow := by decide
  lenFits := by decide
  pcFits := by decide
  causeNone := by decide
  recordEmpty := fun _ => rfl
  recordTruthful := fun h => absurd h (by decide)
  snapshotAbsent := fun _ => by decide
  snapshotInside := fun h => absurd h (by decide)
  callInProgress := fun c h => by cases (show (none : Option PortCall) = some c from h)

/-- The invariant holds of a concrete state whose first cycle brings `pc` to LEN. -/
theorem witness_inv_completing : (boot [1101, 2, 3, 0]).Inv where
  memWf := by decide
  memBelow := by decide
  lenFits := by decide
  pcFits := by decide
  causeNone := by decide
  recordEmpty := fun _ => rfl
  recordTruthful := fun h => absurd h (by decide)
  snapshotAbsent := fun _ => by decide
  snapshotInside := fun h => absurd h (by decide)
  callInProgress := fun c h => by cases (show (none : Option PortCall) = some c from h)

/-- The state of that failing run after its cycle: the failure entry written out. -/
def failedRun : State :=
  { boot [1105, 1, 3] with
    runState := .failed, diag := ⟨true, 0, 1105⟩, err := addrRecord .outOfBounds .jumpTarget 1 3 }

/-- That is the state the step leaves. -/
theorem witness_failed_run : step (boot [1105, 1, 3]) = .next failedRun := by rfl

/-- The invariant is not empty of Failed: it holds of that state, with a truthful record. -/
theorem witness_inv_failed : failedRun.Inv where
  memWf := by decide
  memBelow := by decide
  lenFits := by decide
  pcFits := by decide
  causeNone := by decide
  recordEmpty := fun h => absurd rfl h
  recordTruthful := fun _ => ⟨by decide, by decide, .addressing .outOfBounds .jumpTarget 1 3, by decide, by decide, by decide, by decide, by decide, by decide⟩
  snapshotAbsent := fun h => absurd h (by decide)
  snapshotInside := fun _ => by decide
  callInProgress := fun c h => by cases (show (none : Option PortCall) = some c from h)

/-- A state that waits inside an unanswered pull. -/
def waitingRun : State := { boot [3, 2, 99] with diag := ⟨true, 0, 3⟩, portCall := some (.pull 2) }

/-- The invariant is not empty of waiting: it holds of that state, with the call in progress. -/
theorem witness_inv_waiting : waitingRun.Inv where
  memWf := by decide
  memBelow := by decide
  lenFits := by decide
  pcFits := by decide
  causeNone := by decide
  recordEmpty := fun _ => rfl
  recordTruthful := fun h => absurd h (by decide)
  snapshotAbsent := fun h => absurd h (by decide)
  snapshotInside := fun _ => by decide
  callInProgress := fun c h => by
    cases (show some (PortCall.pull 2) = some c from h)
    refine ⟨rfl, by decide, [], by decide, ?_⟩
    unfold WritesTo State.paramPresent State.paramWord State.isAddress
    decide

/-- AddressingFailureRecordsTheAddress and FailedCycleIsPrecise. -/
theorem witness_addressing_failure : (boot [1105, 1, 3]).Inv ∧ (boot [1105, 1, 3]).runState = .running ∧
    (boot [1105, 1, 3]).portCall = none ∧ (boot [1105, 1, 3]).fetches (.jumpIfTrue [.immediate, .immediate]) ∧
    step (boot [1105, 1, 3]) = .next failedRun ∧ failedRun.runState = .failed ∧ failedRun.err.kind = .addressing :=
  ⟨witness_inv_failing, rfl, rfl, ⟨by decide, by decide⟩, witness_failed_run, rfl, rfl⟩
/-- AddressingFailureRecordsTheAddress, its disjuncts: an Add fails as ReadDeref on a Position-mode read-parameter, as WriteDest on
its W parameter, and as OperandFetch (60_exceptions.md R141; a taken jump fails as JumpTarget in witness_addressing_failure). -/
theorem witness_addressing_roles :
    (nextOf (step (boot [101, 1, 9, 0]))).map (fun t => (t.runState, t.err)) =
      some (.failed, addrRecord .outOfBounds .readDeref 1 9) ∧
    (Instr.add [.immediate]).params[1]? = some .read ∧ modeOf [.immediate] 1 = .position ∧
    (nextOf (step (boot [1101, 1, 1, -1, 99]))).map (fun t => (t.runState, t.err)) =
      some (.failed, addrRecord .negativeAddress .writeDest 2 (-1)) ∧
    (Instr.add [.immediate, .immediate]).params[2]? = some .write ∧
    (nextOf (step (boot [1, 0, 0]))).map (fun t => (t.runState, t.err)) =
      some (.failed, addrRecord .outOfBounds .operandFetch 2 3) := by decide
/-- FailedIsTerminal. -/
theorem witness_failed_state : failedRun.runState = .failed := rfl
/-- StepRunsTheDecodedInstruction. -/
theorem witness_step_runs : (boot [99]).runState = .running ∧ (boot [99]).portCall = none ∧ (boot [99]).fetches (.halt []) := by
  unfold State.fetches
  decide
/-- RunningOffTheEndIsSuccess: `pc` is LEN exactly, in the empty program. -/
theorem witness_off_the_end : (boot []).runState = .running ∧ (boot []).portCall = none ∧ (boot []).len ≤ (boot []).pc := by decide
/-- HaltedInExactlyTwoWays: each way, and a Halted state. -/
theorem witness_halted : (nextOf (step (boot [99]))).map State.runState = some .halted ∧
    (nextOf (step (boot []))).map State.runState = some .halted ∧
    (nextOf (step (boot [1101, 2, 3, 0]))).map State.runState = some .running := by decide
/-- UnansweredPortCallWaits and PortCallsAreOnePerCycle: a call with no answer, of each port. -/
theorem witness_waiting : ((boot [3, 0, 99]).fetches (.input []) ∧ WritesTo (boot [3, 0, 99]) 0 0 ∧
      (boot [3, 0, 99]).input.answers = []) ∧
    ((boot [4, 2, 99]).fetches (.output []) ∧ ReadsAs (boot [4, 2, 99]) [] 0 99 ∧ (boot [4, 2, 99]).output.answers = []) ∧
    (boot [3, 0, 99]).runState = .running ∧ (boot [3, 0, 99]).portCall = none := by
  unfold State.fetches WritesTo ReadsAs State.paramPresent State.paramWord State.isAddress
  decide
/-- PortCallsAreOnePerCycle, its clauses of a cycle that calls no port. -/
theorem witness_no_call : ¬ (∃ modes d, (boot [99]).fetches (.input modes) ∧ WritesTo (boot [99]) 0 d) ∧
    ¬ (∃ modes v, (boot [99]).fetches (.output modes) ∧ ReadsAs (boot [99]) modes 0 v) ∧ (nextOf (step (boot [99]))).isSome = true := by
  have h : decode (boot [99]).fetchWord = .ok (.halt []) := by decide
  refine ⟨?_, ?_, by decide⟩
  · rintro ⟨modes, d, hf, -⟩
    cases h.symm.trans hf.2
  · rintro ⟨modes, v, hf, -⟩
    cases h.symm.trans hf.2
/-- LaterAnswersDoNotMatterYet: a step that takes an answer and does not wait. -/
theorem witness_answered : (nextOf (step (boot [3, 0, 99] [.ok 42]))).map State.portCall = some none := by decide
/-- DiagnosticsAreNeverConsulted: two different states that agree on all else. -/
theorem witness_same_but_diagnostics : SameButDiagnostics (boot [99]) ((boot [99]).snapshot 0 5) ∧
    boot [99] ≠ (boot [99]).snapshot 0 5 := ⟨⟨rfl, rfl, rfl, rfl, rfl, rfl, rfl⟩, by decide⟩
/-- PcReachesLenOnlySequentially and StepKeepsTheInvariant. -/
theorem witness_reaches_len : (boot [1101, 2, 3, 0]).Inv ∧
    (nextOf (step (boot [1101, 2, 3, 0]))).map (fun t => (t.pc, t.len)) = some (4, 4) ∧ (boot [1101, 2, 3, 0]).pc = 0 :=
  ⟨witness_inv_completing, by decide, rfl⟩
/-- LoadIsResetWithTheImage and LoadMeetsTheInvariant: an image that is admitted; the first length that is not. -/
theorem witness_load : ([99] : List Word).length ≤ 2147483647 ∧ ([99] : List Word)[0]? = some 99 ∧
    State.load [99] [] [] = some (boot [99]) ∧ 2147483647 < (List.replicate 2147483648 (0 : Word)).length := by
  refine ⟨by decide, by decide, by decide, ?_⟩
  rw [List.length_replicate]
  decide
/-- HostReadsOnlyAfterTheRun: a Running, a Failed and a Halted state, the last cell and the first that does not exist, S13. -/
theorem witness_host : (boot [1105, 1, 3]).runState = .running ∧ failedRun.runState ≠ .running ∧
    (boot [99]).haltWith .explicitHalt ≠ boot [99] ∧ ((boot [99]).haltWith .explicitHalt).runState ≠ .running ∧
    2 < failedRun.len ∧ failedRun.len ≤ 3 ∧ 13 ≤ 13 := by decide

end Sys2Proof.Tests
end

section
/-! PROOFS. `wrap32` (00_scope.md R6, decision D22): its signed value as a remainder, and that no other word is congruent to its
argument. -/

namespace Sys2Proof

/-- `wrap32` shifts its argument into `[0, 2^32)`, takes the remainder there and shifts back: the balanced remainder. -/
theorem toInt_wrap32 (z : Int) : (wrap32 z).toInt = (z + 2147483648) % 4294967296 - 2147483648 := by
  rw [wrap32, BitVec.toInt_ofInt, Int.bmod_def]
  split <;> omega

/-- Two congruent integers in the range of `int32` are equal, so congruence to `z` singles out one word. -/
theorem congruent_iff_eq_wrap32 (z : Int) (r : Word) : (r.toInt - z) % 4294967296 = 0 ↔ r = wrap32 z := by
  have hlo : -2147483648 ≤ r.toInt := BitVec.le_toInt r
  have hhi : r.toInt < 2147483648 := BitVec.toInt_lt
  rw [← BitVec.toInt_inj, toInt_wrap32]
  omega

/-- Settles O14, by the value of `wrap32` as a balanced remainder. -/
theorem wrapIsTheCongruentWord : Obligations.WrapIsTheCongruentWord :=
  fun z => ⟨toInt_wrap32 z, congruent_iff_eq_wrap32 z⟩

end Sys2Proof
end

section
/-! PROOFS. The resolver says what the spec's conditions say: each of its results, a value or a failure, in the terms of
`ReadsAs`, `WritesTo`, `ReadFails`, `WriteFails` and `TargetFails` (40_cycle_and_operands.md R75 to R77, 43_jumps.md R112). -/

namespace Sys2Proof.Machine

theorem fetchParam_eq_ok_iff {s : State} {i : Nat} {w : Word} :
    fetchParam s i = .ok w ↔ s.paramPresent i ∧ w = s.paramWord i := by
  unfold fetchParam State.paramPresent State.paramWord State.paramAddr
  split_ifs with h
  · simp only [false_iff]; omega
  · simp only [Except.ok.injEq, eq_comm, Nat.not_le.1 h, true_and]

theorem fetchParam_eq_error_iff {s : State} {i : Nat} {f : Failure} :
    fetchParam s i = .error f ↔ ¬ s.paramPresent i ∧
      f = .addressing .outOfBounds .operandFetch i (BitVec.ofNat 32 (s.pc + 1 + i)) := by
  unfold fetchParam State.paramPresent State.paramAddr
  split_ifs with h
  · simp only [Except.error.injEq, eq_comm, Nat.not_lt.2 h, not_false_eq_true, true_and]
  · simp only [Nat.not_le.1 h, not_true_eq_false, false_and]

/-- A word that is not negative has one value, signed or not. -/
theorem toInt_eq_toNat_of_nonneg {w : Word} (h : 0 ≤ w.toInt) : w.toInt = w.toNat :=
  BitVec.toInt_eq_toNat_of_lt (Nat.lt_of_not_le (mt BitVec.toInt_neg_iff.2 (Int.not_lt.2 h)))

theorem checkAddr_eq_ok_iff {s : State} {role : AddressRole} {i n : Nat} {raw : Word} :
    checkAddr s role i raw = .ok n ↔ s.isAddress raw ∧ (n : Int) = raw.toInt := by
  constructor
  · intro h
    obtain ⟨hlo, hhi, rfl⟩ := checkAddr_ok h
    exact ⟨⟨hlo, hhi⟩, (toInt_eq_toNat_of_nonneg hlo).symm⟩
  · rintro ⟨⟨hlo, hhi⟩, hn⟩
    have hnat := toInt_eq_toNat_of_nonneg hlo
    rw [checkAddr, if_neg (by omega), if_neg (by omega), show raw.toNat = n by omega]

theorem checkAddr_eq_error_iff {s : State} {role : AddressRole} {i : Nat} {raw : Word} {f : Failure} :
    checkAddr s role i raw = .error f ↔
      (raw.toInt < 0 ∧ f = .addressing .negativeAddress role i raw) ∨
      ((s.len : Int) ≤ raw.toInt ∧ f = .addressing .outOfBounds role i raw) := by
  unfold checkAddr
  split_ifs with hneg hbig
  · have : ¬ (s.len : Int) ≤ raw.toInt := by omega
    simp [hneg, this, eq_comm]
  · simp [hneg, hbig, eq_comm]
  · simp [hneg, hbig]

theorem writeAddr_eq_ok_iff {s : State} {i d : Nat} : writeAddr s i = .ok d ↔ WritesTo s i d := by
  unfold writeAddr WritesTo
  cases h : fetchParam s i with
  | error f => simp [(fetchParam_eq_error_iff.1 h).1]
  | ok w =>
    obtain ⟨hp, rfl⟩ := fetchParam_eq_ok_iff.1 h
    simp [hp, checkAddr_eq_ok_iff]

theorem writeAddr_eq_error_iff {s : State} {i : Nat} {f : Failure} : writeAddr s i = .error f ↔ WriteFails s i f := by
  unfold writeAddr WriteFails
  cases h : fetchParam s i with
  | error e =>
    obtain ⟨hp, rfl⟩ := fetchParam_eq_error_iff.1 h
    simp [hp, eq_comm]
  | ok w =>
    obtain ⟨hp, rfl⟩ := fetchParam_eq_ok_iff.1 h
    simp [hp, checkAddr_eq_error_iff]

theorem readParam_of_immediate {s : State} {modes : List ParamMode} {i : Nat} (hp : s.paramPresent i)
    (hm : modeOf modes i = .immediate) : readParam s modes i = .ok (s.paramWord i) := by
  simp [readParam, fetchParam_eq_ok_iff.2 ⟨hp, rfl⟩, hm]

theorem readParam_of_position {s : State} {modes : List ParamMode} {i : Nat} (hp : s.paramPresent i)
    (hm : modeOf modes i = .position) :
    readParam s modes i = (checkAddr s .readDeref i (s.paramWord i)).map s.readCell := by
  simp [readParam, fetchParam_eq_ok_iff.2 ⟨hp, rfl⟩, hm]

theorem readParam_of_absent {s : State} {modes : List ParamMode} {i : Nat} (hp : ¬ s.paramPresent i) :
    readParam s modes i = .error (.addressing .outOfBounds .operandFetch i (BitVec.ofNat 32 (s.pc + 1 + i))) := by
  rw [readParam, fetchParam_eq_error_iff.2 ⟨hp, rfl⟩]

theorem readParam_eq_ok_iff {s : State} {modes : List ParamMode} {i : Nat} {v : Word} :
    readParam s modes i = .ok v ↔ ReadsAs s modes i v := by
  unfold ReadsAs
  by_cases hp : s.paramPresent i
  · cases hm : modeOf modes i with
    | immediate => simp [readParam_of_immediate hp hm, hp, eq_comm]
    | position =>
      rw [readParam_of_position hp hm]
      cases hc : checkAddr s .readDeref i (s.paramWord i) with
      | error f =>
        have hbad : ¬ s.isAddress (s.paramWord i) := by
          rintro ⟨hlo, hhi⟩
          rcases checkAddr_eq_error_iff.1 hc with ⟨hneg, -⟩ | ⟨hbig, -⟩ <;> omega
        simp [Except.map, hbad]
      | ok n =>
        obtain ⟨hlo, hhi, rfl⟩ := checkAddr_ok hc
        simp [Except.map, hp, State.isAddress, hlo, hhi, eq_comm]
  · simp [readParam_of_absent hp, hp]

theorem readParam_eq_error_iff {s : State} {modes : List ParamMode} {i : Nat} {f : Failure} :
    readParam s modes i = .error f ↔ ReadFails s modes i f := by
  unfold ReadFails
  by_cases hp : s.paramPresent i
  · cases hm : modeOf modes i with
    | immediate => simp [readParam_of_immediate hp hm, hp]
    | position =>
      simp only [readParam_of_position hp hm, hp, not_true_eq_false, false_and, true_and, false_or]
      rw [← checkAddr_eq_error_iff]
      cases checkAddr s .readDeref i (s.paramWord i) <;> simp [Except.map]
  · simp [readParam_of_absent hp, hp, eq_comm]

theorem checkTarget_eq_error_iff {s : State} {b : Word} {f : Failure} : checkTarget s b = .error f ↔ TargetFails s b f :=
  checkAddr_eq_error_iff

end Sys2Proof.Machine
end

section
/-! PROOFS. A failure of resolution tells the truth (60_exceptions.md R141, R143). A missing parameter cell is the first one, so it
is the cell LEN; every other offending address failed the check that names it. -/

namespace Sys2Proof.Machine

/-- Where the cell before parameter `i` exists and that of `i` does not, the latter's address is LEN. -/
theorem missingCell_truthful {s : State} {i : Nat} {word : Word} (hlen : s.len ≤ Config.maxLen) (hi : i ≤ 2)
    (hbefore : s.pc + i < s.len) (habsent : ¬ s.paramPresent i) :
    (Failure.addressing .outOfBounds .operandFetch i (BitVec.ofNat 32 (s.pc + 1 + i))).truthful s.len word := by
  unfold State.paramPresent at habsent
  have heq : s.pc + 1 + i = s.len := by omega
  have hval : (BitVec.ofNat 32 s.len).toInt = s.len := by
    simp only [Config.maxLen] at hlen
    have hnat : (BitVec.ofNat 32 s.len).toNat = s.len := by
      rw [BitVec.toNat_ofNat]
      exact Nat.mod_eq_of_lt (by omega)
    rw [BitVec.toInt_eq_toNat_of_lt (by omega), hnat]
  rw [heq]
  exact ⟨hi, by simp, by simp [hval], by simp, by simp [hval]⟩

theorem ReadFails.truthful {s : State} {modes : List ParamMode} {i : Nat} {f : Failure} {word : Word}
    (h : ReadFails s modes i f) (hlen : s.len ≤ Config.maxLen) (hi : i ≤ 2) (hbefore : s.pc + i < s.len) :
    f.truthful s.len word := by
  rcases h with ⟨habsent, rfl⟩ | ⟨-, -, hneg, rfl⟩ | ⟨-, -, hbig, rfl⟩
  · exact missingCell_truthful hlen hi hbefore habsent
  · simp [Failure.truthful, hi, hneg]
  · simp [Failure.truthful, hi, hbig]

theorem WriteFails.truthful {s : State} {i : Nat} {f : Failure} {word : Word}
    (h : WriteFails s i f) (hlen : s.len ≤ Config.maxLen) (hi : i ≤ 2) (hbefore : s.pc + i < s.len) :
    f.truthful s.len word := by
  rcases h with ⟨habsent, rfl⟩ | ⟨-, hneg, rfl⟩ | ⟨-, hbig, rfl⟩
  · exact missingCell_truthful hlen hi hbefore habsent
  · simp [Failure.truthful, hi, hneg]
  · simp [Failure.truthful, hi, hbig]

theorem TargetFails.truthful {s : State} {b : Word} {f : Failure} {word : Word} (h : TargetFails s b f) :
    f.truthful s.len word := by
  rcases h with ⟨hneg, rfl⟩ | ⟨hbig, rfl⟩
  · simp [Failure.truthful, hneg]
  · simp [Failure.truthful, hbig]

theorem paramPresent_of_readParam_ok {s : State} {modes : List ParamMode} {i : Nat} {v : Word}
    (h : readParam s modes i = .ok v) : s.pc + 1 + i < s.len :=
  (readParam_eq_ok_iff.1 h).1

theorem paramPresent_of_writeAddr_ok {s : State} {i d : Nat} (h : writeAddr s i = .ok d) : s.pc + 1 + i < s.len :=
  (writeAddr_eq_ok_iff.1 h).1

theorem lt_len_of_writeAddr_ok {s : State} {i d : Nat} (h : writeAddr s i = .ok d) : d < s.len := by
  obtain ⟨-, ⟨-, hhi⟩, hd⟩ := writeAddr_eq_ok_iff.1 h
  omega

theorem lt_len_of_checkTarget_ok {s : State} {b : Word} {n : Nat} (h : checkTarget s b = .ok n) : n < s.len := by
  obtain ⟨⟨-, hhi⟩, hn⟩ := checkAddr_eq_ok_iff.1 h
  omega

/-- The parameters before the failing one resolved, so their cells exist. -/
theorem ResolutionFails.truthful {i : Instr} {s : State} {e : Failure} {word : Word} (h : ResolutionFails i s e)
    (hlen : s.len ≤ Config.maxLen) (hpc : s.pc < s.len) : e.truthful s.len word := by
  rcases h with ⟨-, h0⟩ | ⟨-, ⟨a, h0⟩, h1⟩ | ⟨-, -, ⟨b, h1⟩, h2⟩ | ⟨-, h0⟩ | ⟨-, -, b, -, h2⟩
  · exact (readParam_eq_error_iff.1 h0).truthful hlen (by omega) hpc
  · exact (readParam_eq_error_iff.1 h1).truthful hlen (by omega) (paramPresent_of_readParam_ok h0)
  · exact (writeAddr_eq_error_iff.1 h2).truthful hlen (by omega) (paramPresent_of_readParam_ok h1)
  · exact (writeAddr_eq_error_iff.1 h0).truthful hlen (by omega) hpc
  · exact (checkTarget_eq_error_iff.1 h2).truthful

end Sys2Proof.Machine
end

section
/-! PROOFS. The invariant of a run (10_state.md sections 1 to 6): it holds at reset, each named update of the state keeps it under
the condition the update is made in, and so every step keeps it. -/

namespace Sys2Proof.Machine

/-- A cycle is under way in `s` and has taken its snapshot (40_cycle_and_operands.md R72). It holds in the state an instruction is
run on and in one that waits inside a port call. -/
structure State.InCycle (s : State) : Prop where
  inv : s.Inv
  running : s.runState = .running
  snapshotTaken : s.diag = { valid := true, addr := s.pc, word := s.fetchWord }

variable {s t : State}

theorem State.InCycle.pc_lt (h : s.InCycle) : s.pc < s.len := by
  simpa [h.snapshotTaken] using h.inv.snapshotInside

/-- The fetch opens a cycle. -/
theorem State.Inv.snapshot_inCycle (h : s.Inv) (hrun : s.runState = .running) (hcall : s.portCall = none)
    (hpc : s.pc < s.len) : (s.snapshot s.pc s.fetchWord).InCycle where
  inv := { h with
    recordTruthful := by simp [hrun]
    snapshotAbsent := by simp
    snapshotInside := fun _ => hpc
    callInProgress := by simp [hcall] }
  running := hrun
  snapshotTaken := rfl

theorem State.Inv.haltWith (h : s.Inv) (hrun : s.runState = .running) (hcall : s.portCall = none) {c : HaltCause}
    (hc : c ≠ .none) : (s.haltWith c).Inv :=
  { h with
    causeNone := by simp [hc]
    recordEmpty := fun _ => h.recordEmpty (by simp [hrun])
    recordTruthful := by simp
    callInProgress := by simp [hcall] }

theorem State.Inv.setPc (h : s.Inv) (hrun : s.runState ≠ .failed) (hcall : s.portCall = none) {n : Nat}
    (hn : n ≤ s.len) : (s.setPc n).Inv :=
  { h with
    pcFits := hn
    recordTruthful := fun hf => absurd hf hrun
    callInProgress := by simp [hcall] }

theorem State.Inv.writeCell (h : s.Inv) (hrun : s.runState ≠ .failed) (hcall : s.portCall = none) {d : Nat}
    (hd : d < s.len) (v : Word) : (s.writeCell d v).Inv :=
  { h with
    memWf := Memory.write_wf h.memWf d v
    memBelow := Memory.write_below h.memBelow hd v
    recordTruthful := fun hf => absurd hf hrun
    callInProgress := by simp [hcall] }

theorem State.InCycle.pullAnswered (h : s.InCycle) (rest : List PullAnswer) (got : List Word) :
    (s.pullAnswered rest got).InCycle :=
  { h with inv := { h.inv with callInProgress := by simp } }

theorem State.InCycle.pushAnswered (h : s.InCycle) (rest : List PushAnswer) (put : List Word) :
    (s.pushAnswered rest put).InCycle :=
  { h with inv := { h.inv with callInProgress := by simp } }

theorem State.InCycle.awaitPort (h : s.InCycle) {c : PortCall} (hc : s.makesCall c) : (s.awaitPort c).Inv :=
  { h.inv with
    callInProgress := by
      rintro c' ⟨⟩
      exact ⟨h.running, h.snapshotTaken, by cases c <;> exact hc⟩ }

theorem State.InCycle.raise (h : s.InCycle) (hcall : s.portCall = none) {f : Failure}
    (hf : f.truthful s.len s.fetchWord) : (s.raise f).Inv :=
  { h.inv with
    causeNone := by simpa [h.running] using h.inv.causeNone
    recordEmpty := by simp
    recordTruthful := fun _ => ⟨h.pc_lt, h.snapshotTaken, f, rfl, hf⟩
    callInProgress := by simp [hcall] }

/-- A port call of the cycle under way keeps the invariant, whether the port answers or not: its parameter cell exists, so the
advance by 2 stays within LEN, and a pull's destination is a cell. -/
theorem continueCall_inv {c : PortCall} (h : s.InCycle) (hc : s.makesCall c) (hnext : continueCall c s = .next t) :
    t.Inv := by
  cases c with
  | pull d =>
    have ⟨_, _, hw⟩ := hc
    have hd : d < s.len := lt_len_of_writeAddr_ok (writeAddr_eq_ok_iff.2 hw)
    have hp : s.pc + 1 + 0 < s.len := hw.1
    rcases pullInto_next hnext with ⟨-, rfl⟩ | ⟨r, rest, -, rfl⟩ | ⟨v, rest, -, rfl⟩
    · exact h.awaitPort hc
    · exact (h.pullAnswered rest []).raise rfl trivial
    · have hrun : (s.pullAnswered rest [v]).runState ≠ .failed := by simp [h.running]
      exact ((h.pullAnswered rest [v]).inv.writeCell hrun rfl hd v).setPc hrun rfl (n := s.pc + 2)
        (show s.pc + 2 ≤ s.len by omega)
  | push v =>
    have ⟨_, _, hr⟩ := hc
    have hp : s.pc + 1 + 0 < s.len := hr.1
    rcases pushValue_next hnext with ⟨-, rfl⟩ | ⟨r, rest, -, rfl⟩ | ⟨rest, -, rfl⟩
    · exact h.awaitPort hc
    · exact (h.pushAnswered rest []).raise rfl trivial
    · exact (h.pushAnswered rest [v]).inv.setPc (by simp [h.running]) rfl (show s.pc + 2 ≤ s.len by omega)

/-- The instruction of the cycle under way keeps the invariant: a resolved parameter's cell exists, so no advance passes LEN. -/
theorem exec_inv {i : Instr} (h : s.InCycle) (hcall : s.portCall = none) (hi : decode s.fetchWord = .ok i)
    (hnext : exec i s = .next t) : t.Inv := by
  have hrun : s.runState ≠ .failed := by simp [h.running]
  cases exec_effect hnext with
  | failed e he => exact h.raise hcall (he.truthful h.inv.lenFits h.pc_lt)
  | stored a b v d hp h0 h1 h2 =>
    have := paramPresent_of_writeAddr_ok h2
    exact (h.inv.writeCell hrun hcall (lt_len_of_writeAddr_ok h2) v).setPc hrun hcall (n := s.pc + 4)
      (show s.pc + 4 ≤ s.len by omega)
  | jumped a b n hp h0 h1 ht h2 => exact h.inv.setPc hrun hcall (lt_len_of_checkTarget_ok h2).le
  | passed a b hp h0 h1 ht =>
    have := paramPresent_of_readParam_ok h1
    exact h.inv.setPc hrun hcall (by omega)
  | pulled modes d _ hin h0 hpull =>
    exact continueCall_inv (c := .pull d) h ⟨modes, hin ▸ hi, writeAddr_eq_ok_iff.1 h0⟩ hpull
  | pushed modes v _ hout h0 hpush =>
    exact continueCall_inv (c := .push v) h ⟨modes, hout ▸ hi, readParam_eq_ok_iff.1 h0⟩ hpush
  | halted modes hhalt =>
    exact (h.inv.haltWith h.running hcall (by simp)).setPc (by simp) hcall (n := s.pc + 1) h.pc_lt

/-- Every step keeps the invariant. -/
theorem step_inv (h : s.Inv) (hnext : step s = .next t) : t.Inv := by
  obtain ⟨hrun, ⟨hcall, -, rfl⟩ | ⟨hcall, hpc, sub, hsub, rfl⟩ | ⟨hcall, hpc, i, hi, hexec⟩ | ⟨c, hcall, hcont⟩⟩ :=
    step_next hnext
  · exact h.haltWith hrun hcall (by simp)
  · exact (h.snapshot_inCycle hrun hcall hpc).raise hcall ⟨rfl, hsub⟩
  · exact exec_inv (h.snapshot_inCycle hrun hcall hpc) hcall hi hexec
  · obtain ⟨-, hdiag, hmakes⟩ := h.callInProgress c hcall
    exact continueCall_inv ⟨h, hrun, hdiag⟩ hmakes hcont

end Sys2Proof.Machine

namespace Sys2Proof

/-- Settles O50, from one lemma per thing a step can do. -/
theorem stepKeepsTheInvariant : Obligations.StepKeepsTheInvariant :=
  fun _ _ h hnext => Machine.step_inv h hnext

/-- Settles O48: reset writes each element the invariant speaks of. -/
theorem resetMeetsTheInvariant : Obligations.ResetMeetsTheInvariant where
  memWf := rfl
  memBelow := rfl
  lenFits := Nat.zero_le _
  pcFits := le_rfl
  causeNone := by decide
  recordEmpty := fun _ => rfl
  recordTruthful := by simp [Machine.State.reset]
  snapshotAbsent := fun _ => ⟨rfl, rfl⟩
  snapshotInside := by simp [Machine.State.reset]
  callInProgress := by simp [Machine.State.reset]

end Sys2Proof
end

section
/-! PROOFS. The only ways to Halted (10_state.md R16, R17). A port call never ends the run, so it is the terminating check or a
Halt. -/

namespace Sys2Proof.Machine

variable {s t : State}

theorem pullInto_not_halted {d : Nat} (h : pullInto d s = .next t) (hrun : s.runState = .running) :
    t.runState ≠ .halted := by
  rcases pullInto_next h with ⟨-, rfl⟩ | ⟨r, rest, -, rfl⟩ | ⟨v, rest, -, rfl⟩ <;> simp [hrun]

theorem pushValue_not_halted {v : Word} (h : pushValue v s = .next t) (hrun : s.runState = .running) :
    t.runState ≠ .halted := by
  rcases pushValue_next h with ⟨-, rfl⟩ | ⟨r, rest, -, rfl⟩ | ⟨rest, -, rfl⟩ <;> simp [hrun]

theorem continueCall_not_halted {c : PortCall} (h : continueCall c s = .next t) (hrun : s.runState = .running) :
    t.runState ≠ .halted := by
  cases c with
  | pull d => exact pullInto_not_halted h hrun
  | push v => exact pushValue_not_halted h hrun

/-- Of the nine instructions Halt alone ends Halted. -/
theorem exec_halted {i : Instr} (h : exec i s = .next t) (hrun : s.runState = .running) (hhalt : t.runState = .halted) :
    ∃ modes, i = .halt modes := by
  cases exec_effect h with
  | failed e he => simp at hhalt
  | stored a b v d hp h0 h1 h2 => simp [hrun] at hhalt
  | jumped a b n hp h0 h1 ht h2 => simp [hrun] at hhalt
  | passed a b hp h0 h1 ht => simp [hrun] at hhalt
  | pulled modes d _ hin h0 hpull => exact absurd hhalt (pullInto_not_halted hpull hrun)
  | pushed modes v _ hout h0 hpush => exact absurd hhalt (pushValue_not_halted hpush hrun)
  | halted modes hi => exact ⟨modes, hi⟩

theorem exec_halt (modes : List ParamMode) (s : State) :
    exec (.halt modes) s = .next ((s.haltWith .explicitHalt).setPc (s.pc + 1)) := rfl

/-- A step that ends Halted: each of the two ways, with its cause. -/
theorem step_halted_iff (h : step s = .next t) :
    (t.runState = .halted ↔ s.portCall = none ∧ (s.len ≤ s.pc ∨ ∃ modes, s.fetches (.halt modes))) ∧
    (t.runState = .halted → t.haltCause = if s.len ≤ s.pc then .ranOffEnd else .explicitHalt) := by
  obtain ⟨hrun, ⟨hcall, hpc, rfl⟩ | ⟨hcall, hpc, sub, hsub, rfl⟩ | ⟨hcall, hpc, i, hi, hexec⟩ | ⟨c, hcall, hcont⟩⟩ :=
    step_next h
  · simp [hcall, hpc]
  · simp [State.fetches, hsub, hpc]
  · by_cases hhalt : t.runState = .halted
    · obtain ⟨modes, rfl⟩ := exec_halted hexec hrun hhalt
      rw [exec_halt] at hexec
      cases hexec
      simp [State.fetches, hcall, hpc, hi]
    · have hother : ∀ modes, i ≠ .halt modes := by
        rintro modes rfl
        rw [exec_halt] at hexec
        cases hexec
        exact hhalt rfl
      simp [State.fetches, hhalt, hpc, hi, hother]
  · simp [continueCall_not_halted hcont hrun, hcall]

theorem step_of_halted (h : s.runState = .halted) : step s = .fault .runHalted := by
  simp [step, engineMove, h]

end Sys2Proof.Machine

namespace Sys2Proof

/-- Settles O40, from the cases of a step. -/
theorem haltedInExactlyTwoWays : Obligations.HaltedInExactlyTwoWays :=
  ⟨fun _ _ h => Machine.step_halted_iff h, fun _ h => Machine.step_of_halted h⟩

end Sys2Proof
end

section
/-! PROOFS. Where `pc` goes (10_state.md R14): a step leaves it, advances it by the length of the instruction at `pc`, or jumps to a
cell of Memory. Only the advance can reach LEN. -/

namespace Sys2Proof.Machine

variable {s t : State}

theorem pullInto_pc {d : Nat} (h : pullInto d s = .next t) : t.len = s.len ∧ (t.pc = s.pc ∨ t.pc = s.pc + 2) := by
  rcases pullInto_next h with ⟨-, rfl⟩ | ⟨r, rest, -, rfl⟩ | ⟨v, rest, -, rfl⟩ <;> simp

theorem pushValue_pc {v : Word} (h : pushValue v s = .next t) : t.len = s.len ∧ (t.pc = s.pc ∨ t.pc = s.pc + 2) := by
  rcases pushValue_next h with ⟨-, rfl⟩ | ⟨r, rest, -, rfl⟩ | ⟨rest, -, rfl⟩ <;> simp

/-- An instruction leaves LEN, and leaves `pc`, advances it by its length, or sends it to a cell of Memory. -/
theorem exec_pc {i : Instr} (h : exec i s = .next t) :
    t.len = s.len ∧ (t.pc = s.pc ∨ t.pc = s.pc + i.lengthCells ∨ t.pc < s.len) := by
  cases exec_effect h with
  | failed e he => simp
  | stored a b v d hp h0 h1 h2 => simp [Instr.lengthCells, hp]
  | jumped a b n hp h0 h1 ht h2 => exact ⟨rfl, .inr (.inr (lt_len_of_checkTarget_ok h2))⟩
  | passed a b hp h0 h1 ht => simp [Instr.lengthCells, hp]
  | pulled modes d _ hin h0 hpull =>
    subst hin
    exact (pullInto_pc hpull).imp_right (Or.imp_right .inl)
  | pushed modes v _ hout h0 hpush =>
    subst hout
    exact (pushValue_pc hpush).imp_right (Or.imp_right .inl)
  | halted modes hi => simp [hi, Instr.lengthCells, Instr.params]

/-- A call belongs to an instruction of length 2, which a call that completes advances over. -/
theorem continueCall_pc {c : PortCall} (hc : s.makesCall c) (h : continueCall c s = .next t) :
    t.len = s.len ∧ ∃ i, decode s.fetchWord = .ok i ∧ (t.pc = s.pc ∨ t.pc = s.pc + i.lengthCells) := by
  cases c with
  | pull d =>
    obtain ⟨modes, hi, -⟩ := hc
    exact (pullInto_pc h).imp_right fun hpc => ⟨_, hi, hpc⟩
  | push v =>
    obtain ⟨modes, hi, -⟩ := hc
    exact (pushValue_pc h).imp_right fun hpc => ⟨_, hi, hpc⟩

/-- `pc` comes to LEN by the advance over the fetched instruction only. -/
theorem step_reaches_len (hinv : s.Inv) (h : step s = .next t) (hlen : t.pc = t.len) (hmoved : t.pc ≠ s.pc) :
    ∃ i, s.fetches i ∧ t.pc = s.pc + i.lengthCells := by
  obtain ⟨hrun, ⟨-, -, rfl⟩ | ⟨-, -, sub, -, rfl⟩ | ⟨-, hpc, i, hi, hexec⟩ | ⟨c, hcall, hcont⟩⟩ := step_next h
  · exact absurd rfl hmoved
  · exact absurd rfl hmoved
  · obtain ⟨hsame, hstay | hadvance | hjump⟩ := exec_pc hexec
    · exact absurd hstay hmoved
    · exact ⟨i, ⟨hpc, hi⟩, hadvance⟩
    · simp only [State.snapshot_len] at hsame hjump
      omega
  · obtain ⟨-, hdiag, hmakes⟩ := hinv.callInProgress c hcall
    obtain ⟨-, i, hi, hstay | hadvance⟩ := continueCall_pc hmakes hcont
    · exact absurd hstay hmoved
    · exact ⟨i, ⟨State.InCycle.pc_lt ⟨hinv, hrun, hdiag⟩, hi⟩, hadvance⟩

end Sys2Proof.Machine

namespace Sys2Proof

/-- Settles O46: a taken jump's target is a cell, so it is not LEN. -/
theorem pcReachesLenOnlySequentially : Obligations.PcReachesLenOnlySequentially :=
  fun _ _ hinv h hlen hmoved => Machine.step_reaches_len hinv h hlen hmoved

end Sys2Proof
end

section
/-! PROOFS. Two runs that differ in diagnostics only go on alike (10_state.md R17 to R19). The resolver reads LEN, Memory and `pc`;
each update keeps the agreement; so every meaning built of them does. -/

namespace Sys2Proof.Machine

variable {s s' : State}

namespace SameButDiagnostics

/-! Each named update keeps the agreement; those of the diagnostics do whatever they write. -/

theorem setPc (h : SameButDiagnostics s s') (n : Nat) : SameButDiagnostics (s.setPc n) (s'.setPc n) := by
  obtain ⟨hlen, hmem, hpc, hrun, hcall, hin, hout⟩ := h
  exact ⟨hlen, hmem, rfl, hrun, hcall, hin, hout⟩

theorem writeCell (h : SameButDiagnostics s s') (a : Nat) (v : Word) :
    SameButDiagnostics (s.writeCell a v) (s'.writeCell a v) := by
  obtain ⟨hlen, hmem, hpc, hrun, hcall, hin, hout⟩ := h
  exact ⟨hlen, congrArg (Memory.write · a v) hmem, hpc, hrun, hcall, hin, hout⟩

theorem snapshot (h : SameButDiagnostics s s') (ia ia' : Nat) (w w' : Word) :
    SameButDiagnostics (s.snapshot ia w) (s'.snapshot ia' w') := h

theorem haltWith (h : SameButDiagnostics s s') (c c' : HaltCause) :
    SameButDiagnostics (s.haltWith c) (s'.haltWith c') := by
  obtain ⟨hlen, hmem, hpc, -, hcall, hin, hout⟩ := h
  exact ⟨hlen, hmem, hpc, rfl, hcall, hin, hout⟩

theorem raise (h : SameButDiagnostics s s') (f f' : Failure) : SameButDiagnostics (s.raise f) (s'.raise f') := by
  obtain ⟨hlen, hmem, hpc, -, hcall, hin, hout⟩ := h
  exact ⟨hlen, hmem, hpc, rfl, hcall, hin, hout⟩

theorem awaitPort (h : SameButDiagnostics s s') (c : PortCall) : SameButDiagnostics (s.awaitPort c) (s'.awaitPort c) := by
  obtain ⟨hlen, hmem, hpc, hrun, -, hin, hout⟩ := h
  exact ⟨hlen, hmem, hpc, hrun, rfl, hin, hout⟩

theorem pullAnswered (h : SameButDiagnostics s s') (rest : List PullAnswer) (got got' : List Word) :
    SameButDiagnostics (s.pullAnswered rest got) (s'.pullAnswered rest got') := by
  obtain ⟨hlen, hmem, hpc, hrun, -, -, hout⟩ := h
  exact ⟨hlen, hmem, hpc, hrun, rfl, rfl, hout⟩

theorem pushAnswered (h : SameButDiagnostics s s') (rest : List PushAnswer) (put put' : List Word) :
    SameButDiagnostics (s.pushAnswered rest put) (s'.pushAnswered rest put') := by
  obtain ⟨hlen, hmem, hpc, hrun, -, hin, -⟩ := h
  exact ⟨hlen, hmem, hpc, hrun, rfl, hin, rfl⟩

/-! The reads see no difference. -/

theorem pc_eq (h : SameButDiagnostics s s') : s.pc = s'.pc := by
  obtain ⟨-, -, hpc, -⟩ := h
  exact hpc

theorem fetchWord_eq (h : SameButDiagnostics s s') : s.fetchWord = s'.fetchWord := by
  obtain ⟨-, hmem, hpc, -⟩ := h
  simp only [State.fetchWord, State.readCell, hmem, hpc]

theorem readCell_eq (h : SameButDiagnostics s s') : s.readCell = s'.readCell := by
  obtain ⟨-, hmem, -⟩ := h
  funext a
  simp only [State.readCell, hmem]

theorem fetchParam_eq (h : SameButDiagnostics s s') (i : Nat) : fetchParam s i = fetchParam s' i := by
  obtain ⟨hlen, hmem, hpc, -⟩ := h
  unfold fetchParam State.paramAddr State.readCell
  rw [hlen, hmem, hpc]

theorem checkAddr_eq (h : SameButDiagnostics s s') (role : AddressRole) (i : Nat) (raw : Word) :
    checkAddr s role i raw = checkAddr s' role i raw := by
  obtain ⟨hlen, -⟩ := h
  simp only [checkAddr, hlen]

theorem readParam_eq (h : SameButDiagnostics s s') (modes : List ParamMode) (i : Nat) :
    readParam s modes i = readParam s' modes i := by
  simp only [readParam, h.fetchParam_eq, h.checkAddr_eq, h.readCell_eq]

theorem writeAddr_eq (h : SameButDiagnostics s s') (i : Nat) : writeAddr s i = writeAddr s' i := by
  simp only [writeAddr, h.fetchParam_eq, h.checkAddr_eq]

end SameButDiagnostics

/-! Each meaning gives results that agree. -/

/-- The same resolution either fails in both or goes on in both. -/
theorem orRaise_same {α : Type} {r r' : Except Failure α} {k k' : α → Result} (h : SameButDiagnostics s s')
    (hr : r = r') (hk : ∀ x, SameResultButDiagnostics (k x) (k' x)) :
    SameResultButDiagnostics (orRaise r s k) (orRaise r' s' k') := by
  subst hr
  cases r with
  | error f => exact h.raise f f
  | ok x => exact hk x

theorem binaryInto_same (h : SameButDiagnostics s s') (f : Word → Word → Word) (modes : List ParamMode) :
    SameResultButDiagnostics (binaryInto f modes s) (binaryInto f modes s') := by
  refine orRaise_same h (h.readParam_eq modes 0) fun a => ?_
  refine orRaise_same h (h.readParam_eq modes 1) fun b => ?_
  refine orRaise_same h (h.writeAddr_eq 2) fun d => ?_
  rw [h.pc_eq]
  exact (h.writeCell d (f a b)).setPc _

theorem jumpWhen_same (h : SameButDiagnostics s s') (taken : Word → Bool) (modes : List ParamMode) :
    SameResultButDiagnostics (jumpWhen taken modes s) (jumpWhen taken modes s') := by
  refine orRaise_same h (h.readParam_eq modes 0) fun a => ?_
  refine orRaise_same h (h.readParam_eq modes 1) fun b => ?_
  split
  · exact orRaise_same h (h.checkAddr_eq .jumpTarget 1 b) fun n => h.setPc n
  · rw [h.pc_eq]
    exact h.setPc _

theorem pullInto_same (h : SameButDiagnostics s s') (d : Nat) :
    SameResultButDiagnostics (pullInto d s) (pullInto d s') := by
  have ⟨_, _, hpc, _, _, hin, _⟩ := h
  unfold pullInto
  rw [hin, hpc]
  split
  · exact h.awaitPort _
  · exact (h.pullAnswered _ _ _).raise _ _
  · exact ((h.pullAnswered _ _ _).writeCell d _).setPc _

theorem pushValue_same (h : SameButDiagnostics s s') (v : Word) :
    SameResultButDiagnostics (pushValue v s) (pushValue v s') := by
  have ⟨_, _, hpc, _, _, _, hout⟩ := h
  unfold pushValue
  rw [hout, hpc]
  split
  · exact h.awaitPort _
  · exact (h.pushAnswered _ _ _).raise _ _
  · exact (h.pushAnswered _ _ _).setPc _

theorem continueCall_same (h : SameButDiagnostics s s') (c : PortCall) :
    SameResultButDiagnostics (continueCall c s) (continueCall c s') := by
  cases c with
  | pull d => exact pullInto_same h d
  | push v => exact pushValue_same h v

theorem exec_same (h : SameButDiagnostics s s') (i : Instr) : SameResultButDiagnostics (exec i s) (exec i s') := by
  cases i with
  | add modes => exact binaryInto_same h add32 modes
  | mul modes => exact binaryInto_same h mul32 modes
  | less modes => exact binaryInto_same h lt32 modes
  | equal modes => exact binaryInto_same h eq32 modes
  | jumpIfTrue modes => exact jumpWhen_same h condTrue modes
  | jumpIfFalse modes => exact jumpWhen_same h condFalse modes
  | input modes => exact orRaise_same h (h.writeAddr_eq 0) fun d => pullInto_same h d
  | output modes => exact orRaise_same h (h.readParam_eq modes 0) fun v => pushValue_same h v
  | halt modes =>
    rw [exec_halt, exec_halt, h.pc_eq]
    exact (h.haltWith .explicitHalt .explicitHalt).setPc _

theorem runCycle_same (h : SameButDiagnostics s s') : SameResultButDiagnostics (runCycle s) (runCycle s') := by
  have ⟨hlen, _, hpc, _⟩ := h
  unfold runCycle
  rw [hlen, hpc, h.fetchWord_eq]
  split
  · exact h.haltWith _ _
  · split
    · exact (h.snapshot _ _ _ _).raise _ _
    · exact exec_same (h.snapshot _ _ _ _) _

theorem step_same (h : SameButDiagnostics s s') : SameResultButDiagnostics (step s) (step s') := by
  have ⟨_, _, _, hrun, hcall, _⟩ := h
  unfold step engineMove
  rw [hrun, hcall]
  split
  · rfl
  · rfl
  · split
    · exact continueCall_same h _
    · exact runCycle_same h

end Sys2Proof.Machine

namespace Sys2Proof

/-- Settles O45, meaning by meaning. -/
theorem diagnosticsAreNeverConsulted : Obligations.DiagnosticsAreNeverConsulted :=
  fun _ _ h => Machine.step_same h

end Sys2Proof
end

section
/-! PROOFS. What the host reads (10_state.md R26, 70_reset_and_hazards.md R177). -/

namespace Sys2Proof.Machine

variable {s : State}

theorem State.ended_eq_true_iff : s.ended = true ↔ s.runState ≠ .running := by
  simp [State.ended]

theorem State.readStatus_running (h : s.runState = .running) (n : Nat) : s.readStatus n = none := by
  simp [State.readStatus, State.ended, h]

theorem State.hostReadCell_running (h : s.runState = .running) (a : Nat) : s.hostReadCell a = none := by
  simp [State.hostReadCell, State.ended, h]

theorem State.readStatus_ended (h : s.runState ≠ .running) (n : Nat) : s.readStatus n = s.statusRegister n :=
  if_pos (State.ended_eq_true_iff.2 h)

theorem State.statusRegister_of_ge {n : Nat} (h : 13 ≤ n) : s.statusRegister n = none := by
  obtain ⟨k, rfl⟩ := Nat.exists_eq_add_of_le' h
  rfl

theorem State.hostReadCell_inside (h : s.runState ≠ .running) {a : Nat} (ha : a < s.len) :
    s.hostReadCell a = some (s.readCell a) := by
  simp [State.hostReadCell, State.ended_eq_true_iff.2 h, ha]

theorem State.hostReadCell_outside {a : Nat} (ha : s.len ≤ a) : s.hostReadCell a = none := by
  simp [State.hostReadCell, ha]

end Sys2Proof.Machine

namespace Sys2Proof

open Machine

/-- Settles O51: after the run each register is its `statusRegister`, whose codes are compared name by name. -/
theorem hostReadsOnlyAfterTheRun : Obligations.HostReadsOnlyAfterTheRun := by
  intro s
  refine ⟨fun h => ⟨State.readStatus_running h, State.hostReadCell_running h⟩, fun h => ?_⟩
  simp only [State.readStatus_ended h]
  refine ⟨?_, ?_, rfl, ?_, rfl, rfl, ?_, ?_, ?_, rfl, ?_, rfl, rfl,
    fun _ hn => State.statusRegister_of_ge hn, fun _ ha => State.hostReadCell_inside h ha,
    fun _ ha => State.hostReadCell_outside ha⟩ <;> simp only [State.statusRegister]
  · cases s.runState <;> rfl
  · cases s.haltCause <;> rfl
  · cases s.diag.valid <;> rfl
  · cases s.err.kind <;> rfl
  · cases s.err.sub <;> rfl
  · cases s.err.role <;> rfl
  · cases s.err.valueValid <;> rfl

end Sys2Proof
end

section
/-! PROOFS. Memory as a function of the address (20_memory.md R30 to R33): what a read returns after a write, and that a canonical
memory is determined by its reads (log entry 2). -/

namespace Sys2Proof.Machine

variable {m m' : Memory} {a b : Nat} {u v : Word}

@[simp] theorem Memory.read_cons_self (a : Nat) (v : Word) (m : Memory) : Memory.read ((a, v) :: m) a = v :=
  if_pos rfl

theorem Memory.read_cons_of_ne (h : a ≠ b) : Memory.read ((b, v) :: m) a = m.read a :=
  if_neg h

/-- An address before every listed cell is not listed. -/
theorem Memory.read_of_lt_listed (h : ∀ c ∈ m, a < c.1) : m.read a = Memory.unlisted := by
  induction m with
  | nil => rfl
  | cons p rest ih =>
    rw [List.forall_mem_cons] at h
    rw [Memory.read_cons_of_ne h.1.ne, ih h.2]

theorem Memory.read_write_same (h : m.wf = true) (a : Nat) (v : Word) : (m.write a v).read a = v := by
  induction m with
  | nil => simp only [Memory.write]; split_ifs with hv <;> simp [Memory.read, hv]
  | cons p rest ih =>
    obtain ⟨b, u⟩ := p
    obtain ⟨-, hlt, hrest⟩ := Memory.wf_cons.1 h
    simp only [Memory.write]
    split_ifs with hab hv heq hv
    · subst hv
      exact Memory.read_of_lt_listed (List.forall_mem_cons.2 ⟨hab, fun c hc => hab.trans (hlt c hc)⟩)
    · exact Memory.read_cons_self a v _
    · subst heq hv
      exact Memory.read_of_lt_listed hlt
    · exact Memory.read_cons_self a v _
    · rw [Memory.read_cons_of_ne heq, ih hrest]

/-- Another cell reads as before, whether or not the memory is canonical. -/
theorem Memory.read_write_of_ne (h : b ≠ a) (m : Memory) (v : Word) : (m.write a v).read b = m.read b := by
  induction m with
  | nil => simp only [Memory.write]; split_ifs <;> simp [Memory.read, h]
  | cons p rest ih =>
    obtain ⟨c, u⟩ := p
    simp only [Memory.write]
    split_ifs with hac hv heq hv
    · rfl
    · exact Memory.read_cons_of_ne h
    · subst heq
      exact (Memory.read_cons_of_ne h).symm
    · subst heq
      rw [Memory.read_cons_of_ne h, Memory.read_cons_of_ne h]
    · simp only [Memory.read, ih]

/-- The first listed address of a canonical memory is not after that of another one that reads alike, for it would be unlisted
there. -/
theorem Memory.head_le_of_read_eq (hwf : Memory.wf ((a, v) :: m) = true) (hwf' : Memory.wf ((b, u) :: m') = true)
    (h : ∀ x, Memory.read ((a, v) :: m) x = Memory.read ((b, u) :: m') x) : b ≤ a := by
  by_contra! hab
  obtain ⟨hv, -, -⟩ := Memory.wf_cons.1 hwf
  obtain ⟨-, hlt, -⟩ := Memory.wf_cons.1 hwf'
  have hbefore : ∀ c ∈ (b, u) :: m', a < c.1 := List.forall_mem_cons.2 ⟨hab, fun c hc => hab.trans (hlt c hc)⟩
  exact hv (by simpa [Memory.read_of_lt_listed hbefore] using h a)

/-- A canonical memory that lists a cell does not read as the empty one. -/
theorem Memory.read_cons_ne_nil (hwf : Memory.wf ((a, v) :: m) = true) :
    ¬ ∀ x, Memory.read ((a, v) :: m) x = Memory.read [] x := by
  intro h
  have hread := h a
  rw [Memory.read_cons_self] at hread
  exact (Memory.wf_cons.1 hwf).1 hread

/-- Canonical memories are extensional: the first entries agree, and below them so do the reads of the rests. -/
theorem Memory.ext_of_wf (hwf : m.wf = true) (hwf' : m'.wf = true) (h : ∀ x, m.read x = m'.read x) : m = m' := by
  induction m generalizing m' with
  | nil =>
    cases m' with
    | nil => rfl
    | cons p' rest' => exact absurd (fun x => (h x).symm) (Memory.read_cons_ne_nil hwf')
  | cons p rest ih =>
    cases m' with
    | nil => exact absurd h (Memory.read_cons_ne_nil hwf)
    | cons p' rest' =>
      obtain ⟨a, v⟩ := p
      obtain ⟨b, u⟩ := p'
      obtain rfl : a = b :=
        le_antisymm (Memory.head_le_of_read_eq hwf' hwf fun x => (h x).symm) (Memory.head_le_of_read_eq hwf hwf' h)
      obtain rfl : v = u := by simpa using h a
      obtain ⟨-, hlt, hrest⟩ := Memory.wf_cons.1 hwf
      obtain ⟨-, hlt', hrest'⟩ := Memory.wf_cons.1 hwf'
      rw [ih hrest hrest']
      intro x
      by_cases hx : x = a
      · rw [hx, Memory.read_of_lt_listed hlt, Memory.read_of_lt_listed hlt']
      · simpa only [Memory.read_cons_of_ne hx] using h x

end Sys2Proof.Machine

namespace Sys2Proof

open Machine

/-- Settles O10, by the two reads after a write. -/
theorem writeChangesExactlyOneCell : Obligations.WriteChangesExactlyOneCell :=
  fun s a _ v hwf => ⟨Memory.read_write_same hwf a v, fun hb => Memory.read_write_of_ne hb s.mem v, rfl⟩

/-- Settles O11, by induction on the two lists of cells. -/
theorem memoriesThatReadAlikeAreEqual : Obligations.MemoriesThatReadAlikeAreEqual :=
  fun _ _ hwf hwf' h => Memory.ext_of_wf hwf hwf' h

end Sys2Proof
end

section
/-! PROOFS. Where every operand resolves, an instruction that stores does so at once, and the store is what the next read and fetch
see (20_memory.md R43, 40_cycle_and_operands.md R80, 42_io.md R102). -/

namespace Sys2Proof.Machine

variable {s t : State} {modes : List ParamMode} {d : Nat} {v : Word}

theorem binaryInto_eq_of_resolved {f : Word → Word → Word} {a b : Word} (h0 : ReadsAs s modes 0 a)
    (h1 : ReadsAs s modes 1 b) (h2 : WritesTo s 2 d) :
    binaryInto f modes s = .next ((s.writeCell d (f a b)).setPc (s.pc + 4)) := by
  rw [binaryInto, readParam_eq_ok_iff.2 h0, readParam_eq_ok_iff.2 h1, writeAddr_eq_ok_iff.2 h2]
  rfl

theorem exec_input_eq_of_answered {rest : List PullAnswer} (h0 : WritesTo s 0 d)
    (hans : s.input.answers = .ok v :: rest) :
    exec (.input modes) s = .next (((s.pullAnswered rest [v]).writeCell d v).setPc (s.pc + 2)) := by
  simp only [exec, execInput, writeAddr_eq_ok_iff.2 h0, orRaise_ok, pullInto, hans]

/-- The cell last written is read, and fetched where `pc` is its address, as the word written. -/
theorem State.written_seen {m : Memory} (hwf : m.wf = true) (hmem : t.mem = m.write d v) :
    t.readCell d = v ∧ (t.pc = d → t.fetchWord = v) := by
  have hread : t.readCell d = v := by rw [State.readCell, hmem, Memory.read_write_same hwf]
  exact ⟨hread, fun hpc => by rw [State.fetchWord, hpc, hread]⟩

theorem binaryInto_result_seen {f : Word → Word → Word} {a b : Word} (hwf : s.mem.wf = true)
    (h0 : ReadsAs s modes 0 a) (h1 : ReadsAs s modes 1 b) (h2 : WritesTo s 2 d)
    (h : binaryInto f modes s = .next t) : t.readCell d = f a b ∧ (t.pc = d → t.fetchWord = f a b) := by
  rw [binaryInto_eq_of_resolved h0 h1 h2] at h
  cases h
  exact State.written_seen hwf rfl

theorem exec_input_value_seen {rest : List PullAnswer} (hwf : s.mem.wf = true) (h0 : WritesTo s 0 d)
    (hans : s.input.answers = .ok v :: rest) (h : exec (.input modes) s = .next t) :
    t.readCell d = v ∧ (t.pc = d → t.fetchWord = v) := by
  rw [exec_input_eq_of_answered h0 hans] at h
  cases h
  exact State.written_seen hwf rfl

end Sys2Proof.Machine

namespace Sys2Proof

open Machine

/-- Settles O12: the four arithmetic forms are `binaryInto` of their operation. -/
theorem storeIsSeenByTheNextFetch : Obligations.StoreIsSeenByTheNextFetch :=
  ⟨fun _ _ _ _ _ _ hwf h0 h1 h2 =>
    ⟨binaryInto_result_seen (f := add32) hwf h0 h1 h2, binaryInto_result_seen (f := mul32) hwf h0 h1 h2,
      binaryInto_result_seen (f := lt32) hwf h0 h1 h2, binaryInto_result_seen (f := eq32) hwf h0 h1 h2⟩,
    fun _ _ _ _ _ _ hwf h0 hans h => exec_input_value_seen hwf h0 hans h⟩

end Sys2Proof
end

section
/-! PROOFS. Addresses are checked and never repaired (20_memory.md R34): the check's failure carries the word as it is, an
instruction that does not fail resolved every parameter, and LEN is constant over a run. -/

namespace Sys2Proof.Machine

variable {s t : State} {i : Instr} {k : Nat}

theorem checkAddr_of_not_isAddress {raw : Word} (h : ¬ s.isAddress raw) (role : AddressRole) (k : Nat) :
    checkAddr s role k raw =
      .error (.addressing (if raw.toInt < 0 then .negativeAddress else .outOfBounds) role k raw) := by
  rw [checkAddr_eq_error_iff]
  by_cases hneg : raw.toInt < 0
  · simp [hneg]
  · have hbig : (s.len : Int) ≤ raw.toInt := by
      by_contra! hsmall
      exact h ⟨by omega, hsmall⟩
    simp [hneg, hbig]

/-- Parameter `k` resolves, as a parameter of its kind does (40_cycle_and_operands.md R76, R77). -/
def ParamResolves (s : State) (modes : List ParamMode) (k : Nat) : ParamKind → Prop
  | .read => ∃ v, ReadsAs s modes k v
  | .write => ∃ d, WritesTo s k d

theorem paramResolves_of_readParam_ok {modes : List ParamMode} {v : Word} (h : readParam s modes k = .ok v) :
    ParamResolves s modes k .read :=
  ⟨v, readParam_eq_ok_iff.1 h⟩

theorem paramResolves_of_writeAddr_ok {d : Nat} (h : writeAddr s k = .ok d) (modes : List ParamMode) :
    ParamResolves s modes k .write :=
  ⟨d, writeAddr_eq_ok_iff.1 h⟩

theorem paramResolves_of_twoReads {modes : List ParamMode} {a b : Word} {kind : ParamKind}
    (h0 : readParam s modes 0 = .ok a) (h1 : readParam s modes 1 = .ok b)
    (hk : [ParamKind.read, .read][k]? = some kind) : ParamResolves s modes k kind :=
  match k, hk with
  | 0, rfl => paramResolves_of_readParam_ok h0
  | 1, rfl => paramResolves_of_readParam_ok h1

/-- All parameters are resolved before the effect (40_cycle_and_operands.md R78), so an instruction that does not fail resolved
each of them. -/
theorem exec_paramResolves (h : exec i s = .next t) (hok : t.runState ≠ .failed) {kind : ParamKind}
    (hk : i.params[k]? = some kind) : ParamResolves s i.modes k kind := by
  cases exec_effect h with
  | failed e he => exact absurd rfl hok
  | stored a b v d hp h0 h1 h2 =>
    rw [hp] at hk
    match k, hk with
    | 0, rfl => exact paramResolves_of_readParam_ok h0
    | 1, rfl => exact paramResolves_of_readParam_ok h1
    | 2, rfl => exact paramResolves_of_writeAddr_ok h2 i.modes
  | jumped a b n hp h0 h1 ht h2 => exact paramResolves_of_twoReads h0 h1 (hp ▸ hk)
  | passed a b hp h0 h1 ht => exact paramResolves_of_twoReads h0 h1 (hp ▸ hk)
  | pulled modes d _ hi h0 hpull =>
    subst hi
    match k, hk with
    | 0, rfl => exact paramResolves_of_writeAddr_ok h0 modes
  | pushed modes v _ hi h0 hpush =>
    subst hi
    match k, hk with
    | 0, rfl => exact paramResolves_of_readParam_ok h0
  | halted modes hi =>
    subst hi
    simp [Instr.params] at hk

/-- A Position-mode read-parameter and a write-address parameter resolve only through the address of a cell. -/
theorem exec_addresses_checked (h : exec i s = .next t) (hok : t.runState ≠ .failed)
    (hk : i.params[k]? = some .write ∨ (i.params[k]? = some .read ∧ modeOf i.modes k = .position)) :
    s.paramPresent k ∧ s.isAddress (s.paramWord k) := by
  rcases hk with hw | ⟨hr, hmode⟩
  · obtain ⟨d, hpresent, haddr, -⟩ := exec_paramResolves h hok hw
    exact ⟨hpresent, haddr⟩
  · obtain ⟨v, hpresent, ⟨himm, -⟩ | ⟨-, haddr, -⟩⟩ := exec_paramResolves h hok hr
    · rw [hmode] at himm
      cases himm
    · exact ⟨hpresent, haddr⟩

theorem continueCall_len {c : PortCall} (h : continueCall c s = .next t) : t.len = s.len := by
  cases c with
  | pull d => exact (pullInto_pc h).1
  | push v => exact (pushValue_pc h).1

theorem step_len (h : step s = .next t) : t.len = s.len := by
  obtain ⟨-, ⟨-, -, rfl⟩ | ⟨-, -, sub, -, rfl⟩ | ⟨-, -, i, -, hexec⟩ | ⟨c, -, hcont⟩⟩ := step_next h
  · rfl
  · rfl
  · exact (exec_pc hexec).1
  · exact continueCall_len hcont

/-- A run of `k + 1` steps is a step and a run of `k`. -/
theorem run_succ_next {s t : core.State} (h : core.run (k + 1) s = .next t) :
    ∃ u, core.step s = .next u ∧ core.run k u = .next t := by
  unfold Host.Core.run at h
  split at h
  · exact ⟨_, ‹_›, h⟩
  · cases h
  · cases h

/-- What every step keeps holds at the end of a run that began with it. -/
theorem run_keeps {P : State → Prop} (hstep : ∀ s t, P s → step s = .next t → P t) (hs : P s)
    (h : Host.Core.run core k s = .next t) : P t := by
  induction k generalizing s with
  | zero => cases h; exact hs
  | succ k ih =>
    obtain ⟨u, hu, hrun⟩ := run_succ_next h
    exact ih (hstep s u hs hu) hrun

theorem run_len (h : Host.Core.run core k s = .next t) : t.len = s.len :=
  run_keeps (P := fun u => u.len = s.len) (fun _ _ hlen hu => (step_len hu).trans hlen) rfl h

end Sys2Proof.Machine

namespace Sys2Proof

open Machine

/-- Settles O13: the check, the resolution of an instruction that does not fail, and LEN over a run. -/
theorem badAddressesAreNeverRepaired : Obligations.BadAddressesAreNeverRepaired :=
  ⟨fun _ role k _ h => checkAddr_of_not_isAddress h role k,
    fun _ _ _ h _ hok _ hk => exec_addresses_checked h hok hk,
    fun _ _ _ h => run_len h⟩

end Sys2Proof
end

section
/-! PROOFS. The mode digits of a word (30_encoding.md R51, R55, R56). The decoder's loop reads the decimal digits of `w div 100`
as Mathlib's `Nat.digits` lists them, so a mode list is decoded exactly where its digit values are those digits. -/

namespace Sys2Proof

variable {fuel q k d : Nat} {m : ParamMode} {ms : List ParamMode}

theorem ParamMode.digitValue_lt_two (m : ParamMode) : m.digitValue < 2 := by
  cases m <;> decide

theorem modeOfDigit_eq_some_iff : modeOfDigit d = some m ↔ d = m.digitValue := by
  constructor
  · intro h
    match d, h with
    | 0, rfl => rfl
    | 1, rfl => rfl
  · rintro rfl
    cases m <;> rfl

theorem modeOfDigit_eq_none_iff : modeOfDigit d = none ↔ 2 ≤ d := by
  match d with
  | 0 => simp [modeOfDigit]
  | 1 => simp [modeOfDigit]
  | d + 2 => simp [modeOfDigit]

theorem digit_zero_right (q : Nat) : digit q 0 = q % 10 := by
  simp [digit]

theorem digit_succ (q k : Nat) : digit q (k + 1) = digit (q / 10) k := by
  rw [digit, digit, pow_succ', Nat.div_div_eq_div_mul]

theorem digit_of_zero (k : Nat) : digit 0 k = 0 := by
  simp [digit]

@[simp] theorem modesOfDigits_zero (fuel : Nat) : modesOfDigits fuel 0 = some [] := by
  cases fuel <;> rfl

theorem modesOfDigits_succ (hq : q ≠ 0) :
    modesOfDigits (fuel + 1) q =
      (modeOfDigit (q % 10)).bind fun m => (modesOfDigits fuel (q / 10)).map (m :: ·) := by
  rw [modesOfDigits, if_neg hq]
  cases modeOfDigit (q % 10) <;> rfl

/-- With fuel for all digits, the loop gives the list whose digit values are the digits. -/
theorem modesOfDigits_eq_some_iff (hq : q < 10 ^ fuel) :
    modesOfDigits fuel q = some ms ↔ Nat.digits 10 q = ms.map ParamMode.digitValue := by
  induction fuel generalizing q ms with
  | zero =>
    obtain rfl : q = 0 := by simpa using hq
    cases ms <;> simp
  | succ fuel ih =>
    by_cases h0 : q = 0
    · subst h0
      cases ms <;> simp
    · have hrest : q / 10 < 10 ^ fuel := Nat.div_lt_of_lt_mul (by rwa [← pow_succ'])
      rw [modesOfDigits_succ h0, Nat.digits_def' (by norm_num) (Nat.pos_of_ne_zero h0)]
      cases ms with
      | nil => simp [Option.bind_eq_some_iff]
      | cons m ms => simp [Option.bind_eq_some_iff, Option.map_eq_some_iff, modeOfDigit_eq_some_iff, ih hrest]

/-- With fuel for all digits, the loop fails exactly where some digit is no mode. -/
theorem modesOfDigits_eq_none_iff (hq : q < 10 ^ fuel) : modesOfDigits fuel q = none ↔ ∃ k, 2 ≤ digit q k := by
  induction fuel generalizing q with
  | zero =>
    obtain rfl : q = 0 := by simpa using hq
    simp [digit_of_zero]
  | succ fuel ih =>
    by_cases h0 : q = 0
    · subst h0
      simp [digit_of_zero]
    · have hrest : q / 10 < 10 ^ fuel := Nat.div_lt_of_lt_mul (by rwa [← pow_succ'])
      rw [modesOfDigits_succ h0, ← Nat.or_exists_add_one]
      simp only [digit_zero_right, digit_succ, ← ih hrest]
      rw [← modeOfDigit_eq_none_iff]
      cases modeOfDigit (q % 10) <;> simp

theorem modesValue_eq_ofDigits (ms : List ParamMode) : modesValue ms = Nat.ofDigits 10 (ms.map ParamMode.digitValue) := by
  induction ms with
  | nil => rfl
  | cons m ms ih => simp [modesValue, Nat.ofDigits_cons, ih]

theorem ParamMode.digitValue_ne_zero_iff : m.digitValue ≠ 0 ↔ m = .immediate := by
  cases m <;> simp [ParamMode.digitValue]

theorem modesEndImmediate_iff : modesEndImmediate ms = true ↔ ∀ h : ms ≠ [], ms.getLast h = .immediate := by
  rcases eq_or_ne ms [] with rfl | hne
  · simp [modesEndImmediate]
  · rw [modesEndImmediate, List.getLast?_eq_some_getLast hne]
    cases hlast : ms.getLast hne <;> simp [hne, hlast]

/-- A number has the digits of `ms` exactly where it is the value of `ms` and no leading digit is 0 (30_encoding.md R56). -/
theorem digits_eq_modes_iff :
    Nat.digits 10 q = ms.map ParamMode.digitValue ↔ modesEndImmediate ms = true ∧ modesValue ms = q := by
  rw [modesEndImmediate_iff, modesValue_eq_ofDigits]
  constructor
  · intro h
    refine ⟨fun hne => ParamMode.digitValue_ne_zero_iff.1 ?_, by rw [← h, Nat.ofDigits_digits]⟩
    have hq : Nat.digits 10 q ≠ [] := by simpa [h] using hne
    have hlast := Nat.getLast_digit_ne_zero 10 (Nat.digits_ne_nil_iff_ne_zero.1 hq)
    simpa only [h, List.getLast_map] using hlast
  · rintro ⟨hend, rfl⟩
    refine Nat.digits_ofDigits 10 (by norm_num) _ ?_ fun hne => ?_
    · simp only [List.forall_mem_map]
      intro m _
      exact m.digitValue_lt_two.trans (by norm_num)
    · rw [List.getLast_map]
      exact ParamMode.digitValue_ne_zero_iff.2 (hend (by simpa using hne))

/-- Entry `k` of a decoded list stands for digit `k`. -/
theorem digit_eq_of_digits_eq (h : Nat.digits 10 q = ms.map ParamMode.digitValue) (hk : ms[k]? = some m) :
    digit q k = m.digitValue := by
  rw [digit, ← Nat.getD_digits q k (by norm_num), h]
  simp [hk]

end Sys2Proof
end

section
/-! PROOFS. What `decode` answers, in the terms of 30_encoding.md R53 to R55: each of its three failures, in the order of the tests,
and the instruction. -/

namespace Sys2Proof

variable {w : Word} {n : Nat} {i : Instr} {op : List ParamMode → Instr} {ms : List ParamMode}

/-- The opcode table and the opcode numbers are inverse to each other. -/
theorem opcodeOf_map_eq_some_iff :
    (opcodeOf n).map (fun op => op ms) = some i ↔ n = i.opNumber ∧ ms = i.modes := by
  constructor
  · intro h
    unfold opcodeOf at h
    split at h <;> cases h <;> exact ⟨rfl, rfl⟩
  · rintro ⟨rfl, rfl⟩
    cases i <;> rfl

theorem opNumber_modes_of_opcodeOf (h : opcodeOf n = some op) (ms : List ParamMode) :
    n = (op ms).opNumber ∧ ms = (op ms).modes :=
  opcodeOf_map_eq_some_iff.1 (by rw [h]; rfl)

theorem opcodeOf_eq_none_iff : opcodeOf n = none ↔ n ∉ [1, 2, 3, 4, 5, 6, 7, 8, 99] := by
  unfold opcodeOf
  split <;> simp_all

theorem modes_fuel_suffices (h : 0 ≤ w.toInt) : w.toNat / 100 < 10 ^ Config.maxModeDigits := by
  have hnat := Machine.toInt_eq_toNat_of_nonneg h
  have hlt : w.toInt < 2147483648 := BitVec.toInt_lt
  norm_num [Config.maxModeDigits]
  omega

theorem decode_of_negative (h : w.toInt < 0) : decode w = .error .negativeWord :=
  if_pos h

theorem decode_of_badOpcode (h : 0 ≤ w.toInt) (hop : opcodeOf (w.toNat % 100) = none) :
    decode w = .error .badOpcode := by
  simp [decode, h.not_gt, hop]

theorem decode_of_badMode (h : 0 ≤ w.toInt) (hop : opcodeOf (w.toNat % 100) = some op)
    (hms : modesOfDigits Config.maxModeDigits (w.toNat / 100) = none) : decode w = .error .badMode := by
  simp [decode, h.not_gt, hop, hms]

theorem decode_of_valid (h : 0 ≤ w.toInt) (hop : opcodeOf (w.toNat % 100) = some op)
    (hms : modesOfDigits Config.maxModeDigits (w.toNat / 100) = some ms) : decode w = .ok (op ms) := by
  simp [decode, h.not_gt, hop, hms]

/-- The four things a word can be, each with what it decodes to. -/
theorem decode_cases (w : Word) :
    (w.toInt < 0 ∧ decode w = .error .negativeWord) ∨
    (0 ≤ w.toInt ∧ opcodeOf (w.toNat % 100) = none ∧ decode w = .error .badOpcode) ∨
    (0 ≤ w.toInt ∧ (∃ op, opcodeOf (w.toNat % 100) = some op) ∧
      modesOfDigits Config.maxModeDigits (w.toNat / 100) = none ∧ decode w = .error .badMode) ∨
    (0 ≤ w.toInt ∧ ∃ op ms, opcodeOf (w.toNat % 100) = some op ∧
      modesOfDigits Config.maxModeDigits (w.toNat / 100) = some ms ∧ decode w = .ok (op ms)) := by
  rcases lt_or_ge w.toInt 0 with h | h
  · exact .inl ⟨h, decode_of_negative h⟩
  cases hop : opcodeOf (w.toNat % 100) with
  | none => exact .inr (.inl ⟨h, rfl, decode_of_badOpcode h hop⟩)
  | some op =>
    cases hms : modesOfDigits Config.maxModeDigits (w.toNat / 100) with
    | none => exact .inr (.inr (.inl ⟨h, ⟨op, rfl⟩, rfl, decode_of_badMode h hop hms⟩))
    | some ms => exact .inr (.inr (.inr ⟨h, op, ms, rfl, rfl, decode_of_valid h hop hms⟩))

/-- A word decodes to `i` exactly where it is not negative, its opcode digits are the number of `i` and its mode digits are those
of the mode list of `i`. -/
theorem decode_eq_ok_iff :
    decode w = .ok i ↔ 0 ≤ w.toInt ∧ w.toNat % 100 = i.opNumber ∧
      Nat.digits 10 (w.toNat / 100) = i.modes.map ParamMode.digitValue := by
  constructor
  · intro h
    rcases decode_cases w with ⟨-, hd⟩ | ⟨-, -, hd⟩ | ⟨-, -, -, hd⟩ | ⟨h0, op, ms, hop, hms, hd⟩ <;> rw [hd] at h <;>
      cases h
    obtain ⟨hnum, hmodes⟩ := opNumber_modes_of_opcodeOf hop ms
    exact ⟨h0, hnum, hmodes ▸ (modesOfDigits_eq_some_iff (modes_fuel_suffices h0)).1 hms⟩
  · rintro ⟨h0, hnum, hmodes⟩
    obtain ⟨op, hop, hi⟩ := Option.map_eq_some_iff.1 (opcodeOf_map_eq_some_iff.2 ⟨hnum, rfl⟩)
    rw [← hi]
    exact decode_of_valid h0 hop ((modesOfDigits_eq_some_iff (modes_fuel_suffices h0)).2 hmodes)

theorem Instr.wellFormed_iff :
    i.wellFormed = true ↔ i.modes.length ≤ Config.maxModeDigits ∧ modesEndImmediate i.modes = true := by
  simp [Instr.wellFormed, modesFit]

theorem Instr.opNumber_lt (i : Instr) : i.opNumber < 100 := by
  cases i <;> simp [Instr.opNumber]

theorem decode_encode (h : i.wellFormed = true) : decode (encode i) = .ok i := by
  obtain ⟨hlen, hend⟩ := Instr.wellFormed_iff.1 h
  obtain ⟨hnum, hval, h0⟩ := Laws.EncodedFields.of_opNumber i.opNumber_lt (decide_eq_true hlen)
  exact decode_eq_ok_iff.2 ⟨h0, hnum, digits_eq_modes_iff.2 ⟨hend, hval.symm⟩⟩

theorem wellFormed_of_decode (h : decode w = .ok i) : i.wellFormed = true := by
  obtain ⟨h0, -, hmodes⟩ := decode_eq_ok_iff.1 h
  refine Instr.wellFormed_iff.2 ⟨?_, (digits_eq_modes_iff.1 hmodes).1⟩
  rw [← List.length_map ParamMode.digitValue, ← hmodes]
  exact (Nat.digits_length_le_iff (by norm_num) _).2 (modes_fuel_suffices h0)

/-- The two fields of a word make up its value. -/
theorem encode_of_decode (h : decode w = .ok i) : encode i = w := by
  obtain ⟨-, hnum, hmodes⟩ := decode_eq_ok_iff.1 h
  rw [encode, Instr.wordValue, ← hnum, (digits_eq_modes_iff.1 hmodes).2, Nat.mod_add_div, BitVec.ofNat_toNat,
    BitVec.setWidth_eq]

/-- Settles O5: the encoded word's fields are the opcode number and the mode digits, and these are what decoding to the instruction
asks for. -/
theorem encodedInstructionDecodesBack : Obligations.EncodedInstructionDecodesBack :=
  fun _ h => decode_encode h

/-- Settles O6, from what a word that decodes must be. -/
theorem decodedWordEncodesBack : Obligations.DecodedWordEncodesBack :=
  fun _ _ h => ⟨wellFormed_of_decode h, encode_of_decode h⟩

/-- Settles O1: only the first of the four cases of a word is negative. -/
theorem negativeWordsFailFirst : Obligations.NegativeWordsFailFirst := by
  intro w
  refine ⟨fun h => ?_, decode_of_negative⟩
  rcases decode_cases w with ⟨hneg, -⟩ | ⟨-, -, hd⟩ | ⟨-, -, -, hd⟩ | ⟨-, op, ms, -, -, hd⟩
  · exact hneg
  all_goals simp [hd] at h

/-- Settles O2, by the digits the loop reads. -/
theorem modeDigitsAreZeroOrOne : Obligations.ModeDigitsAreZeroOrOne := by
  intro w op h0 hop
  have hnone := modesOfDigits_eq_none_iff (modes_fuel_suffices h0)
  refine ⟨fun hall => ?_, fun hbad => decode_of_badMode h0 hop (hnone.2 hbad)⟩
  cases hms : modesOfDigits Config.maxModeDigits (w.toNat / 100) with
  | none =>
    obtain ⟨k, hk⟩ := hnone.1 hms
    exact absurd (hall k) (by omega)
  | some ms =>
    refine ⟨ms, decode_of_valid h0 hop hms, fun k m hk => ?_⟩
    rw [digit_eq_of_digits_eq ((modesOfDigits_eq_some_iff (modes_fuel_suffices h0)).1 hms) hk]
    cases m <;> simp [ParamMode.digitValue]

/-- Settles O3: the list is as long as the list of digits, whose last one is not 0. -/
theorem modeListHasOneEntryPerDigit : Obligations.ModeListHasOneEntryPerDigit := by
  intro w i h
  obtain ⟨-, -, hmodes⟩ := decode_eq_ok_iff.1 h
  refine ⟨by rw [hmodes, List.length_map], fun hne => ?_, fun k hk => List.getD_eq_default _ _ hk⟩
  rw [List.getLast?_eq_some_getLast hne, modesEndImmediate_iff.1 (digits_eq_modes_iff.1 hmodes).1 hne]

/-- Settles O8, word by word. -/
theorem wordsOfEachOpcodeDecode : Obligations.WordsOfEachOpcodeDecode := by
  unfold Obligations.WordsOfEachOpcodeDecode
  decide

end Sys2Proof
end

section
/-! PROOFS. Illegal words (30_encoding.md R62): they are what does not decode, a cycle raises Decode for them alone, and the mode
digit of a write-address parameter is not consulted. -/

namespace Sys2Proof.Machine

variable {s t : State} {w : Word} {ms ms' : List ParamMode} {k : Nat} {f : Failure}

theorem decode_error_iff : (∃ sub, decode w = .error sub) ↔ IllegalWord w := by
  unfold IllegalWord
  rw [← opcodeOf_eq_none_iff]
  rcases decode_cases w with ⟨hneg, hd⟩ | ⟨h0, hop, hd⟩ | ⟨h0, -, hms, hd⟩ | ⟨h0, op, ms, hop, hms, hd⟩
  · simp [hd, hneg]
  · simp [hd, hop]
  · have hbad := (modesOfDigits_eq_none_iff (modes_fuel_suffices h0)).1 hms
    simp [hd, hbad]
  · have hgood := mt (modesOfDigits_eq_none_iff (modes_fuel_suffices h0)).2 (by simp [hms])
    simp [hd, hop, hgood, h0]

theorem ReadFails.kind_eq (h : ReadFails s ms k f) : (recordOf f).kind = .addressing := by
  rcases h with ⟨-, rfl⟩ | ⟨-, -, -, rfl⟩ | ⟨-, -, -, rfl⟩ <;> rfl

theorem WriteFails.kind_eq (h : WriteFails s k f) : (recordOf f).kind = .addressing := by
  rcases h with ⟨-, rfl⟩ | ⟨-, -, rfl⟩ | ⟨-, -, rfl⟩ <;> rfl

theorem TargetFails.kind_eq {b : Word} (h : TargetFails s b f) : (recordOf f).kind = .addressing := by
  rcases h with ⟨-, rfl⟩ | ⟨-, rfl⟩ <;> rfl

theorem ResolutionFails.kind_eq {i : Instr} (h : ResolutionFails i s f) : (recordOf f).kind = .addressing := by
  rcases h with ⟨-, h0⟩ | ⟨-, -, h1⟩ | ⟨-, -, -, h2⟩ | ⟨-, h0⟩ | ⟨-, -, b, -, h2⟩
  · exact (readParam_eq_error_iff.1 h0).kind_eq
  · exact (readParam_eq_error_iff.1 h1).kind_eq
  · exact (writeAddr_eq_error_iff.1 h2).kind_eq
  · exact (writeAddr_eq_error_iff.1 h0).kind_eq
  · exact (checkTarget_eq_error_iff.1 h2).kind_eq

/-- An instruction that ends in Failed raised Addressing or IoPort (60_exceptions.md R141). -/
theorem exec_failed_kind {i : Instr} (h : exec i s = .next t) (hrun : s.runState = .running)
    (hfail : t.runState = .failed) : t.err.kind ≠ .decode := by
  cases exec_effect h with
  | failed e he => simp [he.kind_eq]
  | stored a b v d hp h0 h1 h2 => simp [hrun] at hfail
  | jumped a b n hp h0 h1 ht h2 => simp [hrun] at hfail
  | passed a b hp h0 h1 ht => simp [hrun] at hfail
  | pulled modes d _ hin h0 hpull =>
    rcases pullInto_next hpull with ⟨-, rfl⟩ | ⟨r, rest, -, rfl⟩ | ⟨v, rest, -, rfl⟩
    · simp [hrun] at hfail
    · simp [recordOf]
    · simp [hrun] at hfail
  | pushed modes v _ hout h0 hpush =>
    rcases pushValue_next hpush with ⟨-, rfl⟩ | ⟨r, rest, -, rfl⟩ | ⟨rest, -, rfl⟩
    · simp [hrun] at hfail
    · simp [recordOf]
    · simp [hrun] at hfail
  | halted modes hi => simp at hfail

theorem step_of_decode_error {sub : DecodeFailure} (hrun : s.runState = .running) (hcall : s.portCall = none)
    (hpc : s.pc < s.len) (hsub : decode s.fetchWord = .error sub) :
    step s = .next ((s.snapshot s.pc s.fetchWord).raise (.decode sub s.fetchWord)) := by
  simp [step, engineMove, hrun, hcall, runCycle, hpc.not_ge, hsub]

/-- Of the steps from a fetch, only the one of a word that does not decode raises Decode. -/
theorem step_raises_decode_iff (hrun : s.runState = .running) (hcall : s.portCall = none) (hpc : s.pc < s.len) :
    (∃ t, step s = .next t ∧ t.runState = .failed ∧ t.err.kind = .decode) ↔ ∃ sub, decode s.fetchWord = .error sub := by
  constructor
  · rintro ⟨t, hstep, hfail, hkind⟩
    obtain ⟨-, ⟨-, hend, -⟩ | ⟨-, -, sub, hsub, -⟩ | ⟨-, -, i, -, hexec⟩ | ⟨c, hc, -⟩⟩ := step_next hstep
    · omega
    · exact ⟨sub, hsub⟩
    · exact absurd hkind (exec_failed_kind hexec hrun hfail)
    · simp [hcall] at hc
  · rintro ⟨sub, hsub⟩
    exact ⟨_, step_of_decode_error hrun hcall hpc hsub, rfl, rfl⟩

theorem readParam_congr (h : modeOf ms k = modeOf ms' k) : readParam s ms k = readParam s ms' k := by
  unfold readParam
  rw [h]

/-- The format RRW looks up the modes of its two read-parameters only. -/
theorem binaryInto_congr (op : Word → Word → Word) (h0 : modeOf ms 0 = modeOf ms' 0) (h1 : modeOf ms 1 = modeOf ms' 1) :
    binaryInto op ms s = binaryInto op ms' s := by
  rw [binaryInto, binaryInto, readParam_congr h0, readParam_congr h1]

end Sys2Proof.Machine

namespace Sys2Proof

open Machine

/-- Settles O4, from the four cases of a word, what an instruction can raise, and which modes a format looks up. -/
theorem illegalWordsFailExactly : Obligations.IllegalWordsFailExactly :=
  ⟨fun _ => decode_error_iff,
    fun _ hrun hcall hpc => (step_raises_decode_iff hrun hcall hpc).trans decode_error_iff,
    fun _ _ _ h0 h1 => ⟨binaryInto_congr add32 h0 h1, binaryInto_congr mul32 h0 h1, binaryInto_congr lt32 h0 h1,
      binaryInto_congr eq32 h0 h1⟩,
    fun _ _ _ => rfl⟩

end Sys2Proof
end

section
/-! PROOFS. The words that decode, counted (30_encoding.md R58): they are the encodings of the well-formed instructions, no two of
them alike, and these are nine to each of the 256 mode lists of at most 8 entries. -/

namespace Sys2Proof

/-- The lists of 1 to `n` modes that end in Immediate. -/
def listsEndingImmediate : Nat → List (List ParamMode)
  | 0 => []
  | n + 1 => [.immediate] :: (listsEndingImmediate n).flatMap fun ms => [.position :: ms, .immediate :: ms]

/-- The mode lists of the well-formed instructions (30_encoding.md R56, R58). -/
def wellFormedModes : List (List ParamMode) := [] :: listsEndingImmediate Config.maxModeDigits

/-- The nine instructions with a mode list. -/
def instrsWithModes (ms : List ParamMode) : List Instr :=
  [.add ms, .mul ms, .input ms, .output ms, .jumpIfTrue ms, .jumpIfFalse ms, .less ms, .equal ms, .halt ms]

/-- The well-formed instructions. -/
def wellFormedInstrs : List Instr := wellFormedModes.flatMap instrsWithModes

variable {n : Nat} {m : ParamMode} {ms : List ParamMode} {i : Instr} {w : Word}

theorem cons_mem_listsEndingImmediate :
    m :: ms ∈ listsEndingImmediate (n + 1) ↔ (m = .immediate ∧ ms = []) ∨ ms ∈ listsEndingImmediate n := by
  cases m <;> simp [listsEndingImmediate]

theorem mem_listsEndingImmediate :
    ms ∈ listsEndingImmediate n ↔ ms.length ≤ n ∧ ms.getLast? = some .immediate := by
  induction n generalizing ms with
  | zero => cases ms <;> simp [listsEndingImmediate]
  | succ n ih =>
    match ms with
    | [] => simp [listsEndingImmediate]
    | [m] => simp [cons_mem_listsEndingImmediate, ih]
    | m :: m' :: rest => simp [cons_mem_listsEndingImmediate, ih, List.getLast?_cons_cons]

theorem listsEndingImmediate_nodup (n : Nat) : (listsEndingImmediate n).Nodup := by
  induction n with
  | zero => exact List.nodup_nil
  | succ n ih =>
    have hnil : [] ∉ listsEndingImmediate n := by simp [mem_listsEndingImmediate]
    refine List.nodup_cons.2 ⟨by simpa using hnil, List.nodup_flatMap.2 ⟨fun ms _ => by simp, ih.imp ?_⟩⟩
    intro ms ms' hne
    have hne' : ms' ≠ ms := Ne.symm hne
    simp [Function.onFun, hne']

theorem length_listsEndingImmediate (n : Nat) : (listsEndingImmediate n).length + 1 = 2 ^ n := by
  induction n with
  | zero => rfl
  | succ n ih =>
    simp only [listsEndingImmediate, List.length_cons, List.length_flatMap, List.length_nil, List.map_const',
      List.sum_replicate]
    rw [pow_succ, ← ih]
    ring

theorem mem_wellFormedModes :
    ms ∈ wellFormedModes ↔ ms.length ≤ Config.maxModeDigits ∧ modesEndImmediate ms = true := by
  rw [wellFormedModes, List.mem_cons, mem_listsEndingImmediate, modesEndImmediate]
  cases hlast : ms.getLast? with
  | none => simp [List.getLast?_eq_none_iff.1 hlast]
  | some m =>
    have hne : ms ≠ [] := by rintro rfl; cases hlast
    cases m <;> simp [hne]

theorem mem_instrsWithModes : i ∈ instrsWithModes ms ↔ i.modes = ms := by
  cases i <;> simp [instrsWithModes, Instr.modes]

theorem mem_wellFormedInstrs : i ∈ wellFormedInstrs ↔ i.wellFormed = true := by
  simp only [wellFormedInstrs, List.mem_flatMap, mem_instrsWithModes, exists_eq_right', mem_wellFormedModes,
    Instr.wellFormed_iff]

theorem wellFormedInstrs_nodup : wellFormedInstrs.Nodup := by
  have hmodes : wellFormedModes.Nodup :=
    List.nodup_cons.2 ⟨by simp [mem_listsEndingImmediate], listsEndingImmediate_nodup _⟩
  refine List.nodup_flatMap.2 ⟨fun ms _ => by simp [instrsWithModes], hmodes.imp fun {ms ms'} hne i h h' => ?_⟩
  exact hne ((mem_instrsWithModes.1 h).symm.trans (mem_instrsWithModes.1 h'))

theorem length_wellFormedInstrs : wellFormedInstrs.length = 2304 := by
  have hmodes : wellFormedModes.length = 256 := length_listsEndingImmediate 8
  rw [wellFormedInstrs, List.length_flatMap]
  simp only [instrsWithModes, List.length_cons, List.length_nil, List.map_const', List.sum_replicate, hmodes]
  rfl

/-- Well-formed instructions with the same word are the same, since the word decodes back to each. -/
theorem encode_injOn {i j : Instr} (hi : i.wellFormed = true) (hj : j.wellFormed = true) (h : encode i = encode j) :
    i = j :=
  Except.ok.inj ((decode_encode hi).symm.trans (h ▸ decode_encode hj))

theorem encodings_nodup : (wellFormedInstrs.map encode).Nodup :=
  wellFormedInstrs_nodup.map_on fun _ hi _ hj h => encode_injOn (mem_wellFormedInstrs.1 hi) (mem_wellFormedInstrs.1 hj) h

theorem mem_encodings : w ∈ wellFormedInstrs.map encode ↔ ∃ i, decode w = .ok i := by
  simp only [List.mem_map, mem_wellFormedInstrs]
  constructor
  · rintro ⟨i, hi, rfl⟩
    exact ⟨i, decode_encode hi⟩
  · rintro ⟨i, h⟩
    exact ⟨i, wellFormed_of_decode h, encode_of_decode h⟩

/-- Settles O7: the words that decode are the encodings of the well-formed instructions. -/
theorem exactlyTwentyThreeHundredFourWordsDecode : Obligations.ExactlyTwentyThreeHundredFourWordsDecode :=
  ⟨wellFormedInstrs.map encode, encodings_nodup, by rw [List.length_map, length_wellFormedInstrs], fun _ => mem_encodings⟩

end Sys2Proof
end

section
/-! PROOFS. The addressing-mode resolver (40_cycle_and_operands.md R74 to R77): the mode looked up, and the two kinds of parameter
word, from what the resolver's results say. -/

namespace Sys2Proof.Machine

variable {modes : List ParamMode} {i : Nat} {m : ParamMode}

theorem modeOf_of_getElem? (h : modes[i]? = some m) : modeOf modes i = m := by
  rw [modeOf, List.getD_eq_getElem?_getD, h, Option.getD_some]

theorem modeOf_of_length_le (h : modes.length ≤ i) : modeOf modes i = .position :=
  List.getD_eq_default _ _ h

/-- Entries 0 and 1 decide an RRW instruction; a third one, the destination's, is never looked up. -/
theorem binaryInto_drop_third_mode (f : Word → Word → Word) (m0 m1 m2 : ParamMode) (s : State) :
    binaryInto f [m0, m1, m2] s = binaryInto f [m0, m1] s :=
  binaryInto_congr f rfl rfl

end Sys2Proof.Machine

namespace Sys2Proof

open Machine

/-- Settles O18: the entry where there is one, else the default. -/
theorem modeOfAParameter : Obligations.ModeOfAParameter :=
  fun _ _ => ⟨fun _ h => modeOf_of_getElem? h, fun h => modeOf_of_length_le h⟩

/-- Settles O19, by the two results of `readParam` in the terms of the rule. -/
theorem readParameterResolves : Obligations.ReadParameterResolves :=
  fun _ _ _ => ⟨fun _ => readParam_eq_ok_iff, fun _ => readParam_eq_error_iff⟩

/-- Settles O20, by the two results of `writeAddr` in the terms of the rule; the four arithmetic forms are `binaryInto` of their
operation, and Input takes no mode at all. -/
theorem writeParameterResolves : Obligations.WriteParameterResolves :=
  ⟨fun _ _ => ⟨fun _ => writeAddr_eq_ok_iff, fun _ => writeAddr_eq_error_iff⟩,
    fun s m0 m1 m2 =>
      ⟨binaryInto_drop_third_mode add32 m0 m1 m2 s, binaryInto_drop_third_mode mul32 m0 m1 m2 s,
        binaryInto_drop_third_mode lt32 m0 m1 m2 s, binaryInto_drop_third_mode eq32 m0 m1 m2 s, rfl⟩⟩

end Sys2Proof
end

section
/-! PROOFS. The frame of Add, Mul, Less and Equal (40_cycle_and_operands.md R80, R83): a failure's entry, or one store and the
advance. -/

namespace Sys2Proof.Machine

variable {i : Instr} {f : Word → Word → Word} {modes : List ParamMode} {s t : State}

theorem exec_eq_binaryInto (hi : i ∈ [.add modes, .mul modes, .less modes, .equal modes]) (s : State) :
    ∃ f, exec i s = binaryInto f modes s := by
  simp only [List.mem_cons, List.not_mem_nil, or_false] at hi
  rcases hi with rfl | rfl | rfl | rfl
  · exact ⟨add32, rfl⟩
  · exact ⟨mul32, rfl⟩
  · exact ⟨lt32, rfl⟩
  · exact ⟨eq32, rfl⟩

/-- The three ways to fail of `binaryInto_next` change the same two fields. -/
theorem binaryInto_raises_or_stores (h : binaryInto f modes s = .next t) :
    (∃ e, t = s.raise e) ∨ ∃ d v, writeAddr s 2 = .ok d ∧ t = (s.writeCell d v).setPc (s.pc + 4) := by
  rcases binaryInto_next h with ⟨e, -, ht⟩ | ⟨_, e, -, -, ht⟩ | ⟨_, _, e, -, -, -, ht⟩ | ⟨a, b, d, -, -, hd, ht⟩
  · exact .inl ⟨e, ht⟩
  · exact .inl ⟨e, ht⟩
  · exact .inl ⟨e, ht⟩
  · exact .inr ⟨d, f a b, hd, ht⟩

/-- What an RRW instruction leaves of the state outside Memory and `pc`, and what of these where it fails. -/
theorem binaryInto_frame (h : binaryInto f modes s = .next t) :
    t.len = s.len ∧ t.haltCause = s.haltCause ∧ t.diag = s.diag ∧ t.portCall = s.portCall ∧
    t.input = s.input ∧ t.output = s.output ∧
    ((t.runState = s.runState ∧ t.err = s.err) ∨ (t.runState = .failed ∧ t.pc = s.pc ∧ t.mem = s.mem)) := by
  rcases binaryInto_raises_or_stores h with ⟨e, rfl⟩ | ⟨d, v, -, rfl⟩ <;> simp

/-- A cell that is not the destination reads as before; where there is no destination, that is every cell. -/
theorem binaryInto_readCell (h : binaryInto f modes s = .next t) {a : Nat} (ha : writeAddr s 2 ≠ .ok a) :
    t.readCell a = s.readCell a := by
  rcases binaryInto_raises_or_stores h with ⟨e, rfl⟩ | ⟨d, v, hd, rfl⟩
  · rfl
  · have hne : a ≠ d := fun had => ha (had ▸ hd)
    exact Memory.read_write_of_ne hne s.mem v

end Sys2Proof.Machine

namespace Sys2Proof

open Machine

/-- Settles O30: all four are `binaryInto` of an operation. -/
theorem storingInstructionsChangeOneCell : Obligations.StoringInstructionsChangeOneCell := by
  intro i modes s t hi _ hexec
  obtain ⟨f, hf⟩ := exec_eq_binaryInto hi s
  rw [hf] at hexec
  obtain ⟨hlen, hcause, hdiag, hcall, hin, hout, hstatus⟩ := binaryInto_frame hexec
  refine ⟨hlen, hcause, hdiag, hcall, hin, hout, hstatus, ?_, ?_⟩
  · intro d hd a hne
    exact binaryInto_readCell hexec (by simp [hd, hne.symm])
  · intro e he a
    exact binaryInto_readCell hexec (by simp [he])

end Sys2Proof
end

section
/-! PROOFS. The three ways a cycle starts (40_cycle_and_operands.md R70 to R73, R81): past the end, at a word that does not decode
(`step_of_decode_error`), at an instruction. -/

namespace Sys2Proof.Machine

variable {s : State}

theorem step_of_cycle (hrun : s.runState = .running) (hcall : s.portCall = none) : step s = runCycle s := by
  simp [step, engineMove, hrun, hcall]

theorem step_of_off_end (hrun : s.runState = .running) (hcall : s.portCall = none) (hend : s.len ≤ s.pc) :
    step s = .next (s.haltWith .ranOffEnd) := by
  rw [step_of_cycle hrun hcall, runCycle, if_pos hend]

theorem step_of_fetches {i : Instr} (hrun : s.runState = .running) (hcall : s.portCall = none) (hf : s.fetches i) :
    step s = exec i (s.snapshot s.pc s.fetchWord) := by
  obtain ⟨hpc, hi⟩ := hf
  rw [step_of_cycle hrun hcall, runCycle, if_neg hpc.not_ge, hi]

end Sys2Proof.Machine

namespace Sys2Proof

open Machine

/-- Settles O33: the record of a decode failure, for each sub-cause. -/
theorem decodeFailureRecordsTheWord : Obligations.DecodeFailureRecordsTheWord := by
  intro s sub hrun hcall hpc hsub
  rw [step_of_decode_error hrun hcall hpc hsub]
  cases sub <;> rfl

/-- Settles O38: the snapshot is the one field a fetch writes. -/
theorem stepRunsTheDecodedInstruction : Obligations.StepRunsTheDecodedInstruction :=
  fun _ _ hrun hcall hf => step_of_fetches hrun hcall hf

/-- Settles O39, by the terminating check. -/
theorem runningOffTheEndIsSuccess : Obligations.RunningOffTheEndIsSuccess :=
  fun _ hrun hcall hend => step_of_off_end hrun hcall hend

end Sys2Proof
end

section
/-! PROOFS. The ALU (41_arithmetic.md R91, R92, decision D1): wrapping the exact signed result is the arithmetic of 32-bit vectors,
so the laws are those of `BitVec`; the signed values come from `toInt_wrap32`. -/

namespace Sys2Proof.Machine

variable {a b : Word}

theorem add32_eq_add (a b : Word) : add32 a b = a + b := by
  rw [add32, wrap32, BitVec.ofInt_add, BitVec.ofInt_toInt, BitVec.ofInt_toInt]

theorem mul32_eq_mul (a b : Word) : mul32 a b = a * b := by
  rw [mul32, wrap32, BitVec.ofInt_mul, BitVec.ofInt_toInt, BitVec.ofInt_toInt]

theorem toNat_add32 (a b : Word) : (add32 a b).toNat = (a.toNat + b.toNat) % 4294967296 := by
  rw [add32_eq_add, BitVec.toNat_add]

theorem toNat_mul32 (a b : Word) : (mul32 a b).toNat = (a.toNat * b.toNat) % 4294967296 := by
  rw [mul32_eq_mul, BitVec.toNat_mul]

theorem add32_comm (a b : Word) : add32 a b = add32 b a := by
  simp only [add32_eq_add, BitVec.add_comm]

theorem add32_assoc (a b c : Word) : add32 (add32 a b) c = add32 a (add32 b c) := by
  simp only [add32_eq_add, BitVec.add_assoc]

theorem add32_zero (a : Word) : add32 a 0 = a :=
  (add32_eq_add a 0).trans (BitVec.add_zero a)

theorem mul32_comm (a b : Word) : mul32 a b = mul32 b a := by
  simp only [mul32_eq_mul, BitVec.mul_comm]

theorem mul32_assoc (a b c : Word) : mul32 (mul32 a b) c = mul32 a (mul32 b c) := by
  simp only [mul32_eq_mul, BitVec.mul_assoc]

theorem mul32_add32 (a b c : Word) : mul32 a (add32 b c) = add32 (mul32 a b) (mul32 a c) := by
  simp only [mul32_eq_mul, add32_eq_add, BitVec.mul_add]

theorem mul32_one (a : Word) : mul32 a 1 = a :=
  (mul32_eq_mul a 1).trans (BitVec.mul_one a)

theorem mul32_zero (a : Word) : mul32 a 0 = 0 :=
  (mul32_eq_mul a 0).trans BitVec.mul_zero

/-- `mul32(a, -1)` is the negation that the machine has no instruction for. -/
theorem add32_mul32_neg_one (a : Word) : add32 a (mul32 a (-1)) = 0 := by
  rw [add32_eq_add, mul32_eq_mul, BitVec.mul_neg, ← mul32_eq_mul, mul32_one]
  exact BitVec.add_right_neg a

theorem toInt_add32 (a b : Word) :
    (add32 a b).toInt = (a.toInt + b.toInt + 2147483648) % 4294967296 - 2147483648 :=
  toInt_wrap32 _

/-- Two operands below 2^31 sum to less than 2^32, so one modulus brings the sum back into range. -/
theorem toInt_add32_of_above (h : 2147483647 < a.toInt + b.toInt) :
    (add32 a b).toInt = a.toInt + b.toInt - 4294967296 := by
  have ha : a.toInt < 2147483648 := BitVec.toInt_lt
  have hb : b.toInt < 2147483648 := BitVec.toInt_lt
  rw [toInt_add32]
  omega

/-- Two operands from -2^31 on sum to -2^32 at least, so one modulus brings the sum back into range. -/
theorem toInt_add32_of_below (h : a.toInt + b.toInt < -2147483648) :
    (add32 a b).toInt = a.toInt + b.toInt + 4294967296 := by
  have ha : -2147483648 ≤ a.toInt := BitVec.le_toInt a
  have hb : -2147483648 ≤ b.toInt := BitVec.le_toInt b
  rw [toInt_add32]
  omega

theorem toInt_add32_of_in_range (hlo : -2147483648 ≤ a.toInt + b.toInt) (hhi : a.toInt + b.toInt ≤ 2147483647) :
    (add32 a b).toInt = a.toInt + b.toInt := by
  rw [toInt_add32]
  omega

theorem mul32_congruent_product (a b : Word) : ((mul32 a b).toInt - a.toInt * b.toInt) % 4294967296 = 0 :=
  (congruent_iff_eq_wrap32 _ _).2 rfl

end Sys2Proof.Machine

namespace Sys2Proof

open Machine

/-- Settles O15, by the signed sum of `wrap32` for the three cases and the laws of the 32-bit sum. -/
theorem additionWrapsByOneModulus : Obligations.AdditionWrapsByOneModulus :=
  ⟨fun a b => ⟨toInt_add32_of_above, toInt_add32_of_below, toInt_add32_of_in_range, toNat_add32 a b, add32_comm a b,
      add32_zero a, add32_mul32_neg_one a⟩,
    add32_assoc, by decide⟩

/-- Settles O16, by the one word congruent to the signed product and the laws of the 32-bit product. -/
theorem multiplicationKeepsTheLowWord : Obligations.MultiplicationKeepsTheLowWord :=
  ⟨fun a b => ⟨toNat_mul32 a b, mul32_congruent_product a b, mul32_comm a b, mul32_one a, mul32_zero a⟩,
    fun a b c => ⟨mul32_assoc a b c, mul32_add32 a b c⟩, by decide⟩

end Sys2Proof
end

section
/-! PROOFS. The format RRW (30_encoding.md R60; 41_arithmetic.md R93, R94): its first failing test is raised
(60_exceptions.md R145), and either every operand resolves or there is one. The rule then holds of every opcode whose handler is
`binaryInto` of its operation. -/

namespace Sys2Proof.Machine

variable {s : State} {modes : List ParamMode} {f : Word → Word → Word} {e : Failure}

theorem readsAs_or_readFails (s : State) (modes : List ParamMode) (k : Nat) :
    (∃ v, ReadsAs s modes k v) ∨ ∃ e, ReadFails s modes k e := by
  cases h : readParam s modes k with
  | ok v => exact .inl ⟨v, readParam_eq_ok_iff.1 h⟩
  | error e => exact .inr ⟨e, readParam_eq_error_iff.1 h⟩

theorem writesTo_or_writeFails (s : State) (k : Nat) : (∃ d, WritesTo s k d) ∨ ∃ e, WriteFails s k e := by
  cases h : writeAddr s k with
  | ok d => exact .inl ⟨d, writeAddr_eq_ok_iff.1 h⟩
  | error e => exact .inr ⟨e, writeAddr_eq_error_iff.1 h⟩

theorem twoReads_resolve_or_fail (s : State) (modes : List ParamMode) :
    (∃ a b, ReadsAs s modes 0 a ∧ ReadsAs s modes 1 b) ∨ ∃ e, TwoReadsFail s modes e := by
  rcases readsAs_or_readFails s modes 0 with ⟨a, h0⟩ | ⟨e, h0⟩
  · rcases readsAs_or_readFails s modes 1 with ⟨b, h1⟩ | ⟨e, h1⟩
    · exact .inl ⟨a, b, h0, h1⟩
    · exact .inr ⟨e, .inr ⟨⟨a, h0⟩, h1⟩⟩
  · exact .inr ⟨e, .inl h0⟩

theorem rrw_resolves_or_fails (s : State) (modes : List ParamMode) :
    (∃ a b d, ReadsAs s modes 0 a ∧ ReadsAs s modes 1 b ∧ WritesTo s 2 d) ∨ ∃ e, RrwFails s modes e := by
  rcases twoReads_resolve_or_fail s modes with ⟨a, b, h0, h1⟩ | ⟨e, h⟩
  · rcases writesTo_or_writeFails s 2 with ⟨d, h2⟩ | ⟨e, h2⟩
    · exact .inl ⟨a, b, d, h0, h1, h2⟩
    · exact .inr ⟨e, .inr ⟨⟨a, h0⟩, ⟨b, h1⟩, h2⟩⟩
  · exact .inr ⟨e, .inl h⟩

/-- The parameters are resolved in the order in which `RrwFails` lists their failures. -/
theorem binaryInto_eq_of_fails (h : RrwFails s modes e) : binaryInto f modes s = .next (s.raise e) := by
  rw [binaryInto]
  rcases h with (h0 | ⟨⟨a, h0⟩, h1⟩) | ⟨⟨a, h0⟩, ⟨b, h1⟩, h2⟩
  · rw [readParam_eq_error_iff.2 h0, orRaise_error]
  · rw [readParam_eq_ok_iff.2 h0, orRaise_ok, readParam_eq_error_iff.2 h1, orRaise_error]
  · rw [readParam_eq_ok_iff.2 h0, orRaise_ok, readParam_eq_ok_iff.2 h1, orRaise_ok, writeAddr_eq_error_iff.2 h2,
      orRaise_error]

/-- The rule of an RRW opcode, from its row of the opcode table and its arm of the dispatch. -/
theorem rrwRule_of_binaryInto {mk : List ParamMode → Instr} {n : Nat} (hnum : ∀ modes, (mk modes).opNumber = n)
    (hparams : ∀ modes, (mk modes).params = [.read, .read, .write])
    (hexec : ∀ modes s, exec (mk modes) s = binaryInto f modes s) : RrwRule mk n f := by
  refine ⟨fun w modes hw => ?_, fun modes s => ⟨hparams modes, ?_, ?_, ?_, rrw_resolves_or_fails s modes⟩⟩
  · obtain ⟨-, hop, -⟩ := decode_eq_ok_iff.1 hw
    rw [hop, hnum]
  · rw [Instr.lengthCells, hparams]
    rfl
  · intro a b d h0 h1 h2
    rw [hexec, binaryInto_eq_of_resolved h0 h1 h2]
    rfl
  · intro e h
    rw [hexec, binaryInto_eq_of_fails h]
    rfl

end Sys2Proof.Machine

namespace Sys2Proof

open Machine

/-- Settles O21: Add is `binaryInto` of `add32`. -/
theorem addFollowsItsRule : Obligations.AddFollowsItsRule :=
  rrwRule_of_binaryInto (fun _ => rfl) (fun _ => rfl) (fun _ _ => rfl)

/-- Settles O22: Mul is `binaryInto` of `mul32`. -/
theorem mulFollowsItsRule : Obligations.MulFollowsItsRule :=
  rrwRule_of_binaryInto (fun _ => rfl) (fun _ => rfl) (fun _ _ => rfl)

end Sys2Proof
end

section
/-! PROOFS. Input and Output (42_io.md R100 to R103): each port call by the port's answer, and the instruction as its parameter's
failure or its call. -/

namespace Sys2Proof.Machine

variable {s : State} {modes : List ParamMode} {d : Nat} {v : Word} {r : IoReason} {e : Failure}

theorem pullInto_of_unanswered (h : s.input.answers = []) (d : Nat) :
    pullInto d s = .next (s.awaitPort (.pull d)) := by
  rw [pullInto, h]

theorem pullInto_of_failed {rest : List PullAnswer} (h : s.input.answers = .fail r :: rest) (d : Nat) :
    pullInto d s = .next ((s.pullAnswered rest []).raise (.inputPort r)) := by
  rw [pullInto, h]

theorem pullInto_of_answered {rest : List PullAnswer} (h : s.input.answers = .ok v :: rest) (d : Nat) :
    pullInto d s = .next (((s.pullAnswered rest [v]).writeCell d v).setPc (s.pc + 2)) := by
  rw [pullInto, h]

theorem pushValue_of_unanswered (h : s.output.answers = []) (v : Word) :
    pushValue v s = .next (s.awaitPort (.push v)) := by
  rw [pushValue, h]

theorem pushValue_of_failed {rest : List PushAnswer} (h : s.output.answers = .fail r :: rest) (v : Word) :
    pushValue v s = .next ((s.pushAnswered rest []).raise (.outputPort v r)) := by
  rw [pushValue, h]

theorem pushValue_of_answered {rest : List PushAnswer} (h : s.output.answers = .ok :: rest) (v : Word) :
    pushValue v s = .next ((s.pushAnswered rest [v]).setPc (s.pc + 2)) := by
  rw [pushValue, h]

/-- A call that failed adds nothing to the history. -/
theorem State.pullAnswered_nil (s : State) (rest : List PullAnswer) :
    s.pullAnswered rest [] = { s with portCall := none, input := { answers := rest, pulled := s.input.pulled } } := by
  rw [State.pullAnswered, List.append_nil]

theorem State.pushAnswered_nil (s : State) (rest : List PushAnswer) :
    s.pushAnswered rest [] = { s with portCall := none, output := { answers := rest, pushed := s.output.pushed } } := by
  rw [State.pushAnswered, List.append_nil]

theorem exec_input_eq_pullInto (h : WritesTo s 0 d) (modes : List ParamMode) :
    exec (.input modes) s = pullInto d s := by
  rw [exec, execInput, writeAddr_eq_ok_iff.2 h, orRaise_ok]

theorem exec_input_of_fails (h : WriteFails s 0 e) (modes : List ParamMode) :
    exec (.input modes) s = .next (s.raise e) := by
  rw [exec, execInput, writeAddr_eq_error_iff.2 h, orRaise_error]

theorem exec_output_eq_pushValue (h : ReadsAs s modes 0 v) : exec (.output modes) s = pushValue v s := by
  rw [exec, execOutput, readParam_eq_ok_iff.2 h, orRaise_ok]

theorem exec_output_of_fails (h : ReadFails s modes 0 e) : exec (.output modes) s = .next (s.raise e) := by
  rw [exec, execOutput, readParam_eq_error_iff.2 h, orRaise_error]

theorem opNumber_of_decode {w : Word} {i : Instr} (h : decode w = .ok i) : w.toNat % 100 = i.opNumber := by
  obtain ⟨-, hop, -⟩ := decode_eq_ok_iff.1 h
  exact hop

end Sys2Proof.Machine

namespace Sys2Proof

open Machine

/-- Settles O25, by the three answers of the resolver and the port. -/
theorem inputFollowsItsRule : Obligations.InputFollowsItsRule := by
  refine ⟨fun w modes hw => opNumber_of_decode hw, fun modes s => ⟨rfl, rfl, ?_, ?_, ?_⟩⟩
  · intro d v rest hd hans
    rw [exec_input_eq_pullInto hd, pullInto_of_answered hans]
    rfl
  · intro d r rest hd hans
    rw [exec_input_eq_pullInto hd, pullInto_of_failed hans, State.pullAnswered_nil]
    rfl
  · intro e he
    rw [exec_input_of_fails he]
    rfl

/-- Settles O26, by the three answers of the resolver and the port. -/
theorem outputFollowsItsRule : Obligations.OutputFollowsItsRule := by
  refine ⟨fun w modes hw => opNumber_of_decode hw, fun modes s => ⟨rfl, rfl, ?_, ?_, ?_⟩⟩
  · intro v rest hv hans
    rw [exec_output_eq_pushValue hv, pushValue_of_answered hans]
    rfl
  · intro v r rest hv hans
    rw [exec_output_eq_pushValue hv, pushValue_of_failed hans, State.pushAnswered_nil]
    rfl
  · intro e he
    rw [exec_output_of_fails he]
    rfl

end Sys2Proof
end

section
/-! PROOFS. The frames of Input (42_io.md R102), and of Output, the jumps and Halt (42_io.md R103, 43_jumps.md R110, R111,
45_halt.md R130). -/

namespace Sys2Proof.Machine

variable {modes : List ParamMode} {s t : State} {d : Nat}

theorem exec_input_next (h : exec (.input modes) s = .next t) :
    (∃ e, writeAddr s 0 = .error e ∧ t = s.raise e) ∨ ∃ d, writeAddr s 0 = .ok d ∧ pullInto d s = .next t :=
  orRaise_next h

theorem exec_output_next (h : exec (.output modes) s = .next t) :
    (∃ e, readParam s modes 0 = .error e ∧ t = s.raise e) ∨
    ∃ v, readParam s modes 0 = .ok v ∧ pushValue v s = .next t :=
  orRaise_next h

/-- What Input leaves of the state outside Memory, `pc` and its port, and what of these where it fails. -/
theorem exec_input_frame (h : exec (.input modes) s = .next t) :
    t.len = s.len ∧ t.haltCause = s.haltCause ∧ t.diag = s.diag ∧ t.output = s.output ∧
    ((t.runState = s.runState ∧ t.err = s.err) ∨ (t.runState = .failed ∧ t.pc = s.pc ∧ t.mem = s.mem)) := by
  rcases exec_input_next h with ⟨e, -, rfl⟩ | ⟨d, -, hpull⟩
  · simp
  · rcases pullInto_next hpull with ⟨-, rfl⟩ | ⟨r, rest, -, rfl⟩ | ⟨v, rest, -, rfl⟩ <;> simp

/-- Input keeps Memory and `pc`, or has the value of its pull to store and does so. -/
theorem exec_input_keeps_or_stores (h : exec (.input modes) s = .next t) :
    (t.mem = s.mem ∧ t.pc = s.pc) ∨
    ∃ d v rest, writeAddr s 0 = .ok d ∧ s.input.answers = .ok v :: rest ∧ t.mem = s.mem.write d v := by
  rcases exec_input_next h with ⟨e, -, rfl⟩ | ⟨d, hd, hpull⟩
  · exact .inl ⟨rfl, rfl⟩
  · rcases pullInto_next hpull with ⟨-, rfl⟩ | ⟨r, rest, -, rfl⟩ | ⟨v, rest, hans, rfl⟩
    · exact .inl ⟨rfl, rfl⟩
    · exact .inl ⟨rfl, rfl⟩
    · exact .inr ⟨d, v, rest, hd, hans, rfl⟩

theorem exec_input_readCell (h : exec (.input modes) s = .next t) (hd : writeAddr s 0 = .ok d) {a : Nat} (ha : a ≠ d) :
    t.readCell a = s.readCell a := by
  rcases exec_input_keeps_or_stores h with ⟨hmem, -⟩ | ⟨d', v, rest, hd', -, hmem⟩ <;>
    rw [State.readCell, hmem]
  · rfl
  · obtain rfl : d' = d := Except.ok.inj (hd'.symm.trans hd)
    exact Memory.read_write_of_ne ha s.mem v

/-- The three ways to fail of `jumpWhen_next` change the same two fields, and its two ways to complete `pc` alone. -/
theorem jumpWhen_raises_or_moves {taken : Word → Bool} (h : jumpWhen taken modes s = .next t) :
    (∃ e, t = s.raise e) ∨ ∃ n, t = s.setPc n := by
  rcases jumpWhen_next h with ⟨e, -, ht⟩ | ⟨_, e, -, -, ht⟩ | ⟨_, _, e, -, -, -, -, ht⟩ | ⟨_, _, n, -, -, -, -, ht⟩ |
    ⟨_, _, -, -, -, ht⟩
  · exact .inl ⟨e, ht⟩
  · exact .inl ⟨e, ht⟩
  · exact .inl ⟨e, ht⟩
  · exact .inr ⟨n, ht⟩
  · exact .inr ⟨s.pc + 3, ht⟩

/-- A jump changes nothing but `pc`, or in a failure nothing but `run_state` and the record. -/
theorem jumpWhen_frame {taken : Word → Bool} (h : jumpWhen taken modes s = .next t) :
    t.mem = s.mem ∧ t.len = s.len ∧ t.diag = s.diag ∧ t.input = s.input ∧
    t.output = s.output ∧ t.portCall = s.portCall ∧ t.haltCause = s.haltCause ∧
    ((t.runState = s.runState ∧ t.err = s.err) ∨ (t.runState = .failed ∧ t.pc = s.pc)) := by
  rcases jumpWhen_raises_or_moves h with ⟨e, rfl⟩ | ⟨n, rfl⟩ <;> simp

/-- What Output leaves of the state outside `pc` and its port, `pc` too where it fails. -/
theorem exec_output_frame (h : exec (.output modes) s = .next t) :
    t.mem = s.mem ∧ t.len = s.len ∧ t.diag = s.diag ∧ t.input = s.input ∧ t.haltCause = s.haltCause ∧
    ((t.runState = s.runState ∧ t.err = s.err) ∨ (t.runState = .failed ∧ t.pc = s.pc)) := by
  rcases exec_output_next h with ⟨e, -, rfl⟩ | ⟨v, -, hpush⟩
  · simp
  · rcases pushValue_next hpush with ⟨-, rfl⟩ | ⟨r, rest, -, rfl⟩ | ⟨rest, -, rfl⟩ <;> simp

end Sys2Proof.Machine

namespace Sys2Proof

open Machine

/-- Settles O31: the one store of an Input is that of the value pulled, to the destination. -/
theorem inputChangesOneCell : Obligations.InputChangesOneCell := by
  intro modes s t _ hexec
  obtain ⟨hlen, hcause, hdiag, hout, hstatus⟩ := exec_input_frame hexec
  refine ⟨hlen, hcause, hdiag, hout, hstatus, fun d hd a ha => exec_input_readCell hexec hd ha, fun hnone => ?_⟩
  rcases exec_input_keeps_or_stores hexec with hkeeps | ⟨d, v, rest, hd, hans, -⟩
  · exact hkeeps
  · exact absurd hans (hnone d v rest hd)

/-- Settles O32, instruction by instruction. -/
theorem otherInstructionsWriteNoCell : Obligations.OtherInstructionsWriteNoCell := by
  intro i modes s t hi hexec
  simp only [List.mem_cons, List.not_mem_nil, or_false] at hi
  rcases hi with rfl | rfl | rfl | rfl
  · obtain ⟨hmem, hlen, hdiag, hin, hcause, hstatus⟩ := exec_output_frame hexec
    exact ⟨hmem, hlen, hdiag, hin, fun hne => absurd rfl hne, fun _ => ⟨hcause, hstatus⟩, nofun⟩
  · obtain ⟨hmem, hlen, hdiag, hin, hout, hcall, hcause, hstatus⟩ := jumpWhen_frame (taken := condTrue) hexec
    exact ⟨hmem, hlen, hdiag, hin, fun _ => ⟨hout, hcall⟩, fun _ => ⟨hcause, hstatus⟩, nofun⟩
  · obtain ⟨hmem, hlen, hdiag, hin, hout, hcall, hcause, hstatus⟩ := jumpWhen_frame (taken := condFalse) hexec
    exact ⟨hmem, hlen, hdiag, hin, fun _ => ⟨hout, hcall⟩, fun _ => ⟨hcause, hstatus⟩, nofun⟩
  · cases hexec
    exact ⟨rfl, rfl, rfl, rfl, fun _ => ⟨rfl, rfl⟩, fun hne => absurd rfl hne, fun _ => rfl⟩

end Sys2Proof
end

section
/-! PROOFS. The one port call of a cycle (42_io.md R104, R105): a cycle whose parameter resolved is its call after the snapshot; the
call goes on alike whether the engine has waited in it or not; and no other cycle touches a port. -/

namespace Sys2Proof.Machine

variable {s t : State} {c : PortCall} {i : Instr}

/-- A port call does not depend on the call recorded: it records its own, or ends it. -/
theorem continueCall_awaitPort (c c' : PortCall) (s : State) : continueCall c (s.awaitPort c') = continueCall c s := by
  cases c with
  | pull d =>
    simp only [continueCall, pullInto, State.awaitPort_input]
    split <;> rfl
  | push v =>
    simp only [continueCall, pushValue, State.awaitPort_output]
    split <;> rfl

theorem step_of_portCall (hrun : s.runState = .running) (hcall : s.portCall = some c) : step s = continueCall c s := by
  simp [step, engineMove, hrun, hcall]

/-- A cycle whose parameter resolved makes the call its instruction asks for. -/
theorem step_of_makesCall (hrun : s.runState = .running) (hcall : s.portCall = none) (hpc : s.pc < s.len)
    (hc : s.makesCall c) : step s = continueCall c (s.snapshot s.pc s.fetchWord) := by
  cases c with
  | pull d =>
    obtain ⟨modes, hi, hd⟩ := hc
    rw [step_of_fetches hrun hcall ⟨hpc, hi⟩]
    exact exec_input_eq_pullInto (s := s.snapshot s.pc s.fetchWord) hd modes
  | push v =>
    obtain ⟨modes, hi, hv⟩ := hc
    rw [step_of_fetches hrun hcall ⟨hpc, hi⟩]
    exact exec_output_eq_pushValue (s := s.snapshot s.pc s.fetchWord) hv

/-- A step from inside the call of a cycle is the step that started the cycle. -/
theorem step_awaiting_eq_step (hrun : s.runState = .running) (hcall : s.portCall = none) (hpc : s.pc < s.len)
    (hc : s.makesCall c) : step ((s.snapshot s.pc s.fetchWord).awaitPort c) = step s := by
  have hgoesOn : step ((s.snapshot s.pc s.fetchWord).awaitPort c) =
      continueCall c ((s.snapshot s.pc s.fetchWord).awaitPort c) := step_of_portCall hrun rfl
  rw [hgoesOn, continueCall_awaitPort, step_of_makesCall hrun hcall hpc hc]

/-- A pull takes no answer where there is none, and the first one otherwise, recording its value. -/
theorem pullInto_input {d : Nat} (h : pullInto d s = .next t) :
    (s.input.answers = [] ∧ t.input = s.input) ∨
    (∃ v, s.input.answers = .ok v :: t.input.answers ∧ t.input.pulled = s.input.pulled ++ [v]) ∨
    (∃ r, s.input.answers = .fail r :: t.input.answers ∧ t.input.pulled = s.input.pulled) := by
  rcases pullInto_next h with ⟨hans, rfl⟩ | ⟨r, rest, hans, rfl⟩ | ⟨v, rest, hans, rfl⟩
  · exact .inl ⟨hans, rfl⟩
  · exact .inr (.inr ⟨r, hans, List.append_nil _⟩)
  · exact .inr (.inl ⟨v, hans, rfl⟩)

/-- A push takes no answer where there is none, and the first one otherwise, recording the value if it is Ok. -/
theorem pushValue_output {v : Word} (h : pushValue v s = .next t) :
    (s.output.answers = [] ∧ t.output = s.output) ∨
    (s.output.answers = .ok :: t.output.answers ∧ t.output.pushed = s.output.pushed ++ [v]) ∨
    (∃ r, s.output.answers = .fail r :: t.output.answers ∧ t.output.pushed = s.output.pushed) := by
  rcases pushValue_next h with ⟨hans, rfl⟩ | ⟨r, rest, hans, rfl⟩ | ⟨rest, hans, rfl⟩
  · exact .inl ⟨hans, rfl⟩
  · exact .inr (.inr ⟨r, hans, List.append_nil _⟩)
  · exact .inr (.inl ⟨hans, rfl⟩)

theorem pullInto_output {d : Nat} (h : pullInto d s = .next t) : t.output = s.output := by
  rcases pullInto_next h with ⟨-, rfl⟩ | ⟨r, rest, -, rfl⟩ | ⟨v, rest, -, rfl⟩ <;> rfl

theorem pushValue_input {v : Word} (h : pushValue v s = .next t) : t.input = s.input := by
  rcases pushValue_next h with ⟨-, rfl⟩ | ⟨r, rest, -, rfl⟩ | ⟨rest, -, rfl⟩ <;> rfl

/-- An instruction that touches a port is an Input or an Output whose parameter resolved, and it touches its own port only. -/
theorem exec_ports (h : exec i s = .next t) :
    (t.input = s.input ∨ ∃ modes d, i = .input modes ∧ WritesTo s 0 d) ∧
    (t.output = s.output ∨ ∃ modes v, i = .output modes ∧ ReadsAs s modes 0 v) := by
  cases exec_effect h with
  | failed e he => exact ⟨.inl rfl, .inl rfl⟩
  | stored a b v d hp h0 h1 h2 => exact ⟨.inl rfl, .inl rfl⟩
  | jumped a b n hp h0 h1 ht h2 => exact ⟨.inl rfl, .inl rfl⟩
  | passed a b hp h0 h1 ht => exact ⟨.inl rfl, .inl rfl⟩
  | pulled modes d _ hi h0 hpull => exact ⟨.inr ⟨modes, d, hi, writeAddr_eq_ok_iff.1 h0⟩, .inl (pullInto_output hpull)⟩
  | pushed modes v _ hi h0 hpush => exact ⟨.inl (pushValue_input hpush), .inr ⟨modes, v, hi, readParam_eq_ok_iff.1 h0⟩⟩
  | halted modes hi => exact ⟨.inl rfl, .inl rfl⟩

/-- The same of a step that starts a cycle. -/
theorem step_ports (hcall : s.portCall = none) (h : step s = .next t) :
    (t.input = s.input ∨ ∃ modes d, s.fetches (.input modes) ∧ WritesTo s 0 d) ∧
    (t.output = s.output ∨ ∃ modes v, s.fetches (.output modes) ∧ ReadsAs s modes 0 v) := by
  obtain ⟨-, ⟨-, -, rfl⟩ | ⟨-, -, sub, -, rfl⟩ | ⟨-, hpc, i, hi, hexec⟩ | ⟨c, hc, -⟩⟩ := step_next h
  · exact ⟨.inl rfl, .inl rfl⟩
  · exact ⟨.inl rfl, .inl rfl⟩
  · refine (exec_ports hexec).imp (Or.imp_right ?_) (Or.imp_right ?_)
    · rintro ⟨modes, d, rfl, hd⟩
      exact ⟨modes, d, ⟨hpc, hi⟩, hd⟩
    · rintro ⟨modes, v, rfl, hv⟩
      exact ⟨modes, v, ⟨hpc, hi⟩, hv⟩
  · simp [hcall] at hc

end Sys2Proof.Machine

namespace Sys2Proof

open Machine

/-- Settles O42: going on with the call is the step that started the cycle, with or without the answer. -/
theorem unansweredPortCallWaits : Obligations.UnansweredPortCallWaits := by
  intro s hrun hcall
  constructor
  · rintro modes d ⟨hpc, hi⟩ hd hans
    have hc : s.makesCall (.pull d) := ⟨modes, hi, hd⟩
    have hwait : step s = .next ((s.snapshot s.pc s.fetchWord).awaitPort (.pull d)) :=
      (step_of_makesCall hrun hcall hpc hc).trans (pullInto_of_unanswered (s := s.snapshot s.pc s.fetchWord) hans d)
    refine ⟨hwait, fun t ht => ?_⟩
    obtain rfl := Host.Outcome.next.inj (hwait.symm.trans ht)
    exact ⟨(step_awaiting_eq_step hrun hcall hpc hc).trans hwait,
      fun a => step_awaiting_eq_step (s := s.offerPull a) hrun hcall hpc hc⟩
  · rintro modes v ⟨hpc, hi⟩ hv hans
    have hc : s.makesCall (.push v) := ⟨modes, hi, hv⟩
    have hwait : step s = .next ((s.snapshot s.pc s.fetchWord).awaitPort (.push v)) :=
      (step_of_makesCall hrun hcall hpc hc).trans (pushValue_of_unanswered (s := s.snapshot s.pc s.fetchWord) hans v)
    refine ⟨hwait, fun t ht => ?_⟩
    obtain rfl := Host.Outcome.next.inj (hwait.symm.trans ht)
    exact ⟨(step_awaiting_eq_step hrun hcall hpc hc).trans hwait,
      fun a => step_awaiting_eq_step (s := s.offerPush a) hrun hcall hpc hc⟩

/-- Settles O43: what the call takes of its port, and that only a call takes anything. -/
theorem portCallsAreOnePerCycle : Obligations.PortCallsAreOnePerCycle := by
  intro s t hcall hstep
  obtain ⟨hrun, -⟩ := step_next hstep
  obtain ⟨hin, hout⟩ := step_ports hcall hstep
  refine ⟨?_, hin.resolve_right, ?_, hout.resolve_right⟩
  · rintro modes d ⟨hpc, hi⟩ hd
    rw [step_of_makesCall (c := .pull d) hrun hcall hpc ⟨modes, hi, hd⟩] at hstep
    exact pullInto_input (s := s.snapshot s.pc s.fetchWord) hstep
  · rintro modes v ⟨hpc, hi⟩ hv
    rw [step_of_makesCall (c := .push v) hrun hcall hpc ⟨modes, hi, hv⟩] at hstep
    exact pushValue_output (s := s.snapshot s.pc s.fetchWord) hstep

end Sys2Proof
end

section
/-! PROOFS. The finite lists of answers (log entry 4): a meaning that does not wait takes the answers it takes from the front, and
leaves those behind as they are. -/

namespace Sys2Proof.Machine

variable {s : State} {pulls : List PullAnswer} {pushes : List PushAnswer}

/-- Where `r` is a next state that waits for no port, `r'` is that state with more answers behind. -/
def SameWithMore (pulls : List PullAnswer) (pushes : List PushAnswer) (r r' : Result) : Prop :=
  ∀ t, r = .next t → t.portCall = none → r' = .next (t.withMore pulls pushes)

theorem next_sameWithMore (t : State) : SameWithMore pulls pushes (.next t) (.next (t.withMore pulls pushes)) := by
  rintro _ ⟨⟩ -
  rfl

/-- The resolver does not look at the ports, so the same resolution fails or goes on. -/
theorem orRaise_sameWithMore {α : Type} (x : Except Failure α) {k k' : α → Result}
    (hk : ∀ a, SameWithMore pulls pushes (k a) (k' a)) :
    SameWithMore pulls pushes (orRaise x s k) (orRaise x (s.withMore pulls pushes) k') := by
  cases x with
  | error f => exact next_sameWithMore (s.raise f)
  | ok a => exact hk a

theorem binaryInto_sameWithMore (f : Word → Word → Word) (modes : List ParamMode) (s : State) :
    SameWithMore pulls pushes (binaryInto f modes s) (binaryInto f modes (s.withMore pulls pushes)) :=
  orRaise_sameWithMore (readParam s modes 0) fun a =>
    orRaise_sameWithMore (readParam s modes 1) fun b =>
      orRaise_sameWithMore (writeAddr s 2) fun d => next_sameWithMore ((s.writeCell d (f a b)).setPc (s.pc + 4))

theorem jumpWhen_sameWithMore (taken : Word → Bool) (modes : List ParamMode) (s : State) :
    SameWithMore pulls pushes (jumpWhen taken modes s) (jumpWhen taken modes (s.withMore pulls pushes)) := by
  refine orRaise_sameWithMore (readParam s modes 0) fun a => ?_
  refine orRaise_sameWithMore (readParam s modes 1) fun b => ?_
  split
  · exact orRaise_sameWithMore (checkTarget s b) fun n => next_sameWithMore (s.setPc n)
  · exact next_sameWithMore (s.setPc (s.pc + 3))

theorem pullInto_sameWithMore (d : Nat) (s : State) :
    SameWithMore pulls pushes (pullInto d s) (pullInto d (s.withMore pulls pushes)) := by
  intro t h hdone
  rcases pullInto_next h with ⟨-, rfl⟩ | ⟨r, rest, hans, rfl⟩ | ⟨v, rest, hans, rfl⟩
  · simp at hdone
  · exact pullInto_of_failed (rest := rest ++ pulls) (congrArg (· ++ pulls) hans) d
  · exact pullInto_of_answered (rest := rest ++ pulls) (congrArg (· ++ pulls) hans) d

theorem pushValue_sameWithMore (v : Word) (s : State) :
    SameWithMore pulls pushes (pushValue v s) (pushValue v (s.withMore pulls pushes)) := by
  intro t h hdone
  rcases pushValue_next h with ⟨-, rfl⟩ | ⟨r, rest, hans, rfl⟩ | ⟨rest, hans, rfl⟩
  · simp at hdone
  · exact pushValue_of_failed (rest := rest ++ pushes) (congrArg (· ++ pushes) hans) v
  · exact pushValue_of_answered (rest := rest ++ pushes) (congrArg (· ++ pushes) hans) v

theorem continueCall_sameWithMore (c : PortCall) (s : State) :
    SameWithMore pulls pushes (continueCall c s) (continueCall c (s.withMore pulls pushes)) := by
  cases c with
  | pull d => exact pullInto_sameWithMore d s
  | push v => exact pushValue_sameWithMore v s

theorem exec_sameWithMore (i : Instr) (s : State) :
    SameWithMore pulls pushes (exec i s) (exec i (s.withMore pulls pushes)) := by
  cases i with
  | add modes => exact binaryInto_sameWithMore add32 modes s
  | mul modes => exact binaryInto_sameWithMore mul32 modes s
  | less modes => exact binaryInto_sameWithMore lt32 modes s
  | equal modes => exact binaryInto_sameWithMore eq32 modes s
  | jumpIfTrue modes => exact jumpWhen_sameWithMore condTrue modes s
  | jumpIfFalse modes => exact jumpWhen_sameWithMore condFalse modes s
  | input modes => exact orRaise_sameWithMore (writeAddr s 0) fun d => pullInto_sameWithMore d s
  | output modes => exact orRaise_sameWithMore (readParam s modes 0) fun v => pushValue_sameWithMore v s
  | halt modes => exact next_sameWithMore ((s.haltWith .explicitHalt).setPc (s.pc + 1))

theorem step_sameWithMore (s : State) : SameWithMore pulls pushes (step s) (step (s.withMore pulls pushes)) := by
  intro t h hdone
  obtain ⟨hrun, ⟨hcall, hend, rfl⟩ | ⟨hcall, hpc, sub, hsub, rfl⟩ | ⟨hcall, hpc, i, hi, hexec⟩ | ⟨c, hcall, hcont⟩⟩ :=
    step_next h
  · exact step_of_off_end (s := s.withMore pulls pushes) hrun hcall hend
  · exact step_of_decode_error (s := s.withMore pulls pushes) hrun hcall hpc hsub
  · rw [step_of_fetches (s := s.withMore pulls pushes) hrun hcall ⟨hpc, hi⟩]
    exact exec_sameWithMore i (s.snapshot s.pc s.fetchWord) t hexec hdone
  · rw [step_of_portCall (s := s.withMore pulls pushes) hrun hcall]
    exact continueCall_sameWithMore c s t hcont hdone

end Sys2Proof.Machine

namespace Sys2Proof

/-- Settles O44, meaning by meaning. -/
theorem laterAnswersDoNotMatterYet : Obligations.LaterAnswersDoNotMatterYet :=
  fun s t _ _ h hdone => Machine.step_sameWithMore s t h hdone

end Sys2Proof
end

section
/-! PROOFS. The format RR (43_jumps.md R110 to R112; 60_exceptions.md R145): both operands resolve before the condition decides
(decision D11), and the target is checked only where the jump is taken (decision D10). The rule then holds of every opcode whose
handler is `jumpWhen` of its condition. -/

namespace Sys2Proof.Machine

variable {s : State} {modes : List ParamMode} {taken : Word → Bool} {a b : Word} {e : Failure}

/-- A word that is an address is the target itself (43_jumps.md R112). -/
theorem checkTarget_of_isAddress (h : s.isAddress b) : checkTarget s b = .ok b.toInt.toNat :=
  checkAddr_eq_ok_iff.2 ⟨h, Int.toNat_of_nonneg h.1⟩

theorem jumpWhen_eq_of_fails (h : TwoReadsFail s modes e) : jumpWhen taken modes s = .next (s.raise e) := by
  rw [jumpWhen]
  rcases h with h0 | ⟨⟨a, h0⟩, h1⟩
  · rw [readParam_eq_error_iff.2 h0, orRaise_error]
  · rw [readParam_eq_ok_iff.2 h0, orRaise_ok, readParam_eq_error_iff.2 h1, orRaise_error]

section
variable (h0 : ReadsAs s modes 0 a) (h1 : ReadsAs s modes 1 b)
include h0 h1

theorem jumpWhen_eq_of_not_taken (hnot : ¬ taken a = true) :
    jumpWhen taken modes s = .next (s.setPc (s.pc + 3)) := by
  rw [jumpWhen, readParam_eq_ok_iff.2 h0, orRaise_ok, readParam_eq_ok_iff.2 h1, orRaise_ok, if_neg hnot]

theorem jumpWhen_eq_of_taken (htaken : taken a = true) :
    jumpWhen taken modes s = orRaise (checkTarget s b) s fun n => .next (s.setPc n) := by
  rw [jumpWhen, readParam_eq_ok_iff.2 h0, orRaise_ok, readParam_eq_ok_iff.2 h1, orRaise_ok, if_pos htaken]

theorem jumpWhen_eq_of_isAddress (htaken : taken a = true) (hb : s.isAddress b) :
    jumpWhen taken modes s = .next (s.setPc b.toInt.toNat) := by
  rw [jumpWhen_eq_of_taken h0 h1 htaken, checkTarget_of_isAddress hb, orRaise_ok]

theorem jumpWhen_eq_of_targetFails (htaken : taken a = true) (hb : TargetFails s b e) :
    jumpWhen taken modes s = .next (s.raise e) := by
  rw [jumpWhen_eq_of_taken h0 h1 htaken, checkTarget_eq_error_iff.2 hb, orRaise_error]

end

/-- The rule of a jump opcode, from its row of the opcode table, its arm of the dispatch, and its condition on the signed value. -/
theorem jumpRule_of_jumpWhen {mk : List ParamMode → Instr} {n : Nat} {cond : Word → Prop}
    (hnum : ∀ modes, (mk modes).opNumber = n) (hparams : ∀ modes, (mk modes).params = [.read, .read])
    (hexec : ∀ modes s, exec (mk modes) s = jumpWhen taken modes s) (hcond : ∀ a, taken a = true ↔ cond a) :
    JumpRule mk n cond := by
  refine ⟨fun w modes hw => (opNumber_of_decode hw).trans (hnum modes), fun modes s => ⟨hparams modes, ?_, ?_, ?_, ?_, ?_⟩⟩
  · rw [Instr.lengthCells, hparams]
    rfl
  · intro a b h0 h1 hnot
    exact (hexec modes s).trans (jumpWhen_eq_of_not_taken h0 h1 (mt (hcond a).1 hnot))
  · intro a b h0 h1 ha hb
    exact (hexec modes s).trans (jumpWhen_eq_of_isAddress h0 h1 ((hcond a).2 ha) hb)
  · intro e h
    exact (hexec modes s).trans (jumpWhen_eq_of_fails h)
  · intro a b e h0 h1 ha hb
    exact (hexec modes s).trans (jumpWhen_eq_of_targetFails h0 h1 ((hcond a).2 ha) hb)

theorem condFalse_iff (a : Word) : condFalse a = true ↔ a.toInt = 0 :=
  decide_eq_true_iff.trans (BitVec.toInt_inj (y := 0)).symm

theorem condTrue_iff (a : Word) : condTrue a = true ↔ a.toInt ≠ 0 :=
  decide_eq_true_iff.trans (not_congr (BitVec.toInt_inj (y := 0)).symm)

end Sys2Proof.Machine

namespace Sys2Proof

open Machine

/-- Settles O27: JumpIfTrue is `jumpWhen` of the condition that its operand is not 0. -/
theorem jumpIfTrueFollowsItsRule : Obligations.JumpIfTrueFollowsItsRule :=
  jumpRule_of_jumpWhen (fun _ => rfl) (fun _ => rfl) (fun _ _ => rfl) condTrue_iff

/-- Settles O28: JumpIfFalse is `jumpWhen` of the condition that its operand is 0. -/
theorem jumpIfFalseFollowsItsRule : Obligations.JumpIfFalseFollowsItsRule :=
  jumpRule_of_jumpWhen (fun _ => rfl) (fun _ => rfl) (fun _ _ => rfl) condFalse_iff

end Sys2Proof
end

section
/-! PROOFS. The comparisons (44_compare.md R120 to R122): each case of the two flags by the signed values, and the rule of the two
instructions, which are RRW instructions like Add and Mul. -/

namespace Sys2Proof.Machine

variable {a b : Word}

theorem lt32_of_lt (h : a.toInt < b.toInt) : lt32 a b = 1 := if_pos h

theorem lt32_of_le (h : b.toInt ≤ a.toInt) : lt32 a b = 0 := if_neg h.not_gt

/-- `eq32` compares words; a word is determined by its signed value. -/
theorem eq32_of_toInt_eq (h : a.toInt = b.toInt) : eq32 a b = 1 := if_pos (BitVec.eq_of_toInt_eq h)

theorem eq32_of_toInt_ne (h : a.toInt ≠ b.toInt) : eq32 a b = 0 := if_neg (mt BitVec.toInt_inj.2 h)

end Sys2Proof.Machine

namespace Sys2Proof

open Machine

/-- Settles O17, by one lemma per case; the corner values are evaluated. -/
theorem comparisonsAreSignedAndExact : Obligations.ComparisonsAreSignedAndExact :=
  ⟨fun _ _ => ⟨lt32_of_lt, lt32_of_le, eq32_of_toInt_eq, eq32_of_toInt_ne⟩, by decide⟩

/-- Settles O23: Less is `binaryInto` of `lt32`. -/
theorem lessFollowsItsRule : Obligations.LessFollowsItsRule :=
  rrwRule_of_binaryInto (fun _ => rfl) (fun _ => rfl) (fun _ _ => rfl)

/-- Settles O24: Equal is `binaryInto` of `eq32`. -/
theorem equalFollowsItsRule : Obligations.EqualFollowsItsRule :=
  rrwRule_of_binaryInto (fun _ => rfl) (fun _ => rfl) (fun _ _ => rfl)

end Sys2Proof
end

section
/-! PROOFS. Halt (45_halt.md R130): its row of the opcode table, and its meaning, in which the mode digits have no part. -/

namespace Sys2Proof

open Machine

/-- Settles O29: the dispatch answers `haltWith` with `pc` moved on by one (`exec_halt`), which changes the three fields named. -/
theorem haltFollowsItsRule : Obligations.HaltFollowsItsRule :=
  ⟨fun _ _ hw => opNumber_of_decode hw, fun modes s => ⟨rfl, rfl, exec_halt modes s⟩⟩

end Sys2Proof
end

section
/-! PROOFS. The end of a failed run (60_exceptions.md R149, R159): no cycle starts in Failed, and the host's result is read off the
run state. -/

namespace Sys2Proof.Machine

variable {s : State}

theorem State.runResult_of_running (h : s.runState = .running) : s.runResult = none := by
  rw [State.runResult, h]

theorem State.runResult_of_halted (h : s.runState = .halted) : s.runResult = some .success := by
  rw [State.runResult, h]

theorem State.runResult_of_failed (h : s.runState = .failed) : s.runResult = some (.failure s.err s.diag) := by
  rw [State.runResult, h]

theorem step_of_failed (h : s.runState = .failed) : step s = .fault .runFailed := by
  simp [step, engineMove, h]

end Sys2Proof.Machine

namespace Sys2Proof

open Machine

/-- Settles O37: a run of one or more steps begins with a step, and from Failed that is a fault. -/
theorem failedIsTerminal : Obligations.FailedIsTerminal := by
  intro s hfail k t hrun
  obtain ⟨u, hstep, -⟩ := run_succ_next hrun
  cases (step_of_failed hfail).symm.trans hstep

/-- Settles O52, by the three run states. -/
theorem resultOfARun : Obligations.ResultOfARun := by
  intro s
  cases h : s.runState with
  | running => simp [State.runResult_of_running h]
  | halted => simp [State.runResult_of_halted h]
  | failed => simp [State.runResult_of_failed h, eq_comm]

end Sys2Proof
end

section
/-! PROOFS. Every instruction and every step in Running answers a next state (60_exceptions.md R158; in an unanswered port call by
log entry 5): a failure is one, and nothing else ends a meaning early. -/

namespace Sys2Proof.Machine

variable {s : State}

theorem orRaise_answers {α : Type} (r : Except Failure α) (s : State) {k : α → Result} (h : ∀ x, ∃ t, k x = .next t) :
    ∃ t, orRaise r s k = .next t := by
  cases r with
  | error e => exact ⟨s.raise e, rfl⟩
  | ok x => exact h x

theorem binaryInto_answers (f : Word → Word → Word) (modes : List ParamMode) (s : State) :
    ∃ t, binaryInto f modes s = .next t :=
  orRaise_answers _ s fun _ => orRaise_answers _ s fun _ => orRaise_answers _ s fun _ => ⟨_, rfl⟩

theorem jumpWhen_answers (taken : Word → Bool) (modes : List ParamMode) (s : State) :
    ∃ t, jumpWhen taken modes s = .next t := by
  refine orRaise_answers _ s fun a => orRaise_answers _ s fun b => ?_
  split
  · exact orRaise_answers _ s fun n => ⟨s.setPc n, rfl⟩
  · exact ⟨s.setPc (s.pc + 3), rfl⟩

theorem pullInto_answers (d : Nat) (s : State) : ∃ t, pullInto d s = .next t := by
  unfold pullInto
  split <;> exact ⟨_, rfl⟩

theorem pushValue_answers (v : Word) (s : State) : ∃ t, pushValue v s = .next t := by
  unfold pushValue
  split <;> exact ⟨_, rfl⟩

theorem continueCall_answers (c : PortCall) (s : State) : ∃ t, continueCall c s = .next t := by
  cases c with
  | pull d => exact pullInto_answers d s
  | push v => exact pushValue_answers v s

theorem exec_answers (i : Instr) (s : State) : ∃ t, exec i s = .next t := by
  cases i with
  | add modes => exact binaryInto_answers add32 modes s
  | mul modes => exact binaryInto_answers mul32 modes s
  | less modes => exact binaryInto_answers lt32 modes s
  | equal modes => exact binaryInto_answers eq32 modes s
  | jumpIfTrue modes => exact jumpWhen_answers condTrue modes s
  | jumpIfFalse modes => exact jumpWhen_answers condFalse modes s
  | input modes => exact orRaise_answers _ s fun d => pullInto_answers d s
  | output modes => exact orRaise_answers _ s fun v => pushValue_answers v s
  | halt modes => exact ⟨_, exec_halt modes s⟩

/-- A call goes on, a cycle past the end halts, a word that does not decode fails, an instruction is run. -/
theorem step_answers (hrun : s.runState = .running) : ∃ t, step s = .next t := by
  cases hcall : s.portCall with
  | some c =>
    rw [step_of_portCall hrun hcall]
    exact continueCall_answers c s
  | none =>
    rcases Nat.lt_or_ge s.pc s.len with hpc | hend
    · cases hi : decode s.fetchWord with
      | error sub => exact ⟨_, step_of_decode_error hrun hcall hpc hi⟩
      | ok i =>
        rw [step_of_fetches hrun hcall ⟨hpc, hi⟩]
        exact exec_answers i _
    · exact ⟨_, step_of_off_end hrun hcall hend⟩

end Sys2Proof.Machine

namespace Sys2Proof

open Machine

/-- Settles O41, by the ways a step in Running starts and the instructions. -/
theorem runningAlwaysHasANextState : Obligations.RunningAlwaysHasANextState :=
  ⟨fun _ hrun => step_answers hrun, exec_answers⟩

end Sys2Proof
end

section
/-! PROOFS. What a port's `Fail` leaves (60_exceptions.md R144; 42_io.md R104, R105): the call's failure after the snapshot of the
fetch, or, where the engine has waited, on the state that waits. -/

namespace Sys2Proof.Machine

variable {s : State}

theorem State.pullAnswered_nil_of_noCall (hcall : s.portCall = none) (rest : List PullAnswer) :
    s.pullAnswered rest [] = { s with input := { answers := rest, pulled := s.input.pulled } } := by
  rw [State.pullAnswered_nil, ← hcall]

theorem State.pushAnswered_nil_of_noCall (hcall : s.portCall = none) (rest : List PushAnswer) :
    s.pushAnswered rest [] = { s with output := { answers := rest, pushed := s.output.pushed } } := by
  rw [State.pushAnswered_nil, ← hcall]

end Sys2Proof.Machine

namespace Sys2Proof

open Machine

/-- Settles O35: each port's failed call, at once and after waiting. -/
theorem portFailureRecordsTheReason : Obligations.PortFailureRecordsTheReason := by
  intro s r hrun
  refine ⟨?_, ?_, ?_, ?_⟩
  · rintro modes d rest hcall ⟨hpc, hi⟩ hd hans
    rw [step_of_makesCall (c := .pull d) hrun hcall hpc ⟨modes, hi, hd⟩, continueCall,
      pullInto_of_failed (s := s.snapshot s.pc s.fetchWord) hans,
      State.pullAnswered_nil_of_noCall (s := s.snapshot s.pc s.fetchWord) hcall]
    rfl
  · intro d rest hcall hans
    rw [step_of_portCall hrun hcall, continueCall, pullInto_of_failed hans, State.pullAnswered_nil]
    rfl
  · rintro modes v rest hcall ⟨hpc, hi⟩ hv hans
    rw [step_of_makesCall (c := .push v) hrun hcall hpc ⟨modes, hi, hv⟩, continueCall,
      pushValue_of_failed (s := s.snapshot s.pc s.fetchWord) hans,
      State.pushAnswered_nil_of_noCall (s := s.snapshot s.pc s.fetchWord) hcall]
    rfl
  · intro v rest hcall hans
    rw [step_of_portCall hrun hcall, continueCall, pushValue_of_failed hans, State.pushAnswered_nil]
    rfl

end Sys2Proof
end

section
/-! PROOFS. The ways to Failed (60_exceptions.md R141, R147): a word that does not decode, a failed resolution, or a port call
answered `Fail`. None touches more than the record, the run state and the answers of the port called, so a failing cycle is
precise. -/

namespace Sys2Proof.Machine

variable {s t : State} {i : Instr}

/-- `t` is `s` after a port call answered `Fail`. -/
inductive PortFails (s : State) : State → Prop where
  | pull (r : IoReason) (rest : List PullAnswer) : PortFails s ((s.pullAnswered rest []).raise (.inputPort r))
  | push (v : Word) (r : IoReason) (rest : List PushAnswer) :
      PortFails s ((s.pushAnswered rest []).raise (.outputPort v r))

theorem PortFails.kind_eq (h : PortFails s t) : t.err.kind = .ioPort := by
  cases h <;> rfl

theorem continueCall_failed {c : PortCall} (h : continueCall c s = .next t) (hrun : s.runState = .running)
    (hfail : t.runState = .failed) : PortFails s t := by
  cases c with
  | pull d =>
    rcases pullInto_next h with ⟨-, rfl⟩ | ⟨r, rest, -, rfl⟩ | ⟨v, rest, -, rfl⟩
    · simp [hrun] at hfail
    · exact .pull r rest
    · simp [hrun] at hfail
  | push v =>
    rcases pushValue_next h with ⟨-, rfl⟩ | ⟨r, rest, -, rfl⟩ | ⟨rest, -, rfl⟩
    · simp [hrun] at hfail
    · exact .push v r rest
    · simp [hrun] at hfail

theorem exec_failed (h : exec i s = .next t) (hrun : s.runState = .running) (hfail : t.runState = .failed) :
    (∃ e, ResolutionFails i s e ∧ t = s.raise e) ∨ PortFails s t := by
  cases exec_effect h with
  | failed e he => exact .inl ⟨e, he, rfl⟩
  | stored a b v d hp h0 h1 h2 => simp [hrun] at hfail
  | jumped a b n hp h0 h1 ht h2 => simp [hrun] at hfail
  | passed a b hp h0 h1 ht => simp [hrun] at hfail
  | pulled modes d _ hin h0 hpull => exact .inr (continueCall_failed (c := .pull d) hpull hrun hfail)
  | pushed modes v _ hout h0 hpush => exact .inr (continueCall_failed (c := .push v) hpush hrun hfail)
  | halted modes hi => simp at hfail

/-- What a failing cycle must leave as it was (60_exceptions.md R147; `pc` is decision D12). -/
def SameProgress (s t : State) : Prop :=
  t.mem = s.mem ∧ t.len = s.len ∧ t.pc = s.pc ∧ t.haltCause = s.haltCause ∧
    t.input.pulled = s.input.pulled ∧ t.output.pushed = s.output.pushed

theorem SameProgress.fetchWord_eq (h : SameProgress s t) : t.fetchWord = s.fetchWord := by
  obtain ⟨hmem, -, hpc, -⟩ := h
  rw [State.fetchWord, State.readCell, hmem, hpc]
  rfl

theorem raise_sameProgress (s : State) (e : Failure) : SameProgress s (s.raise e) :=
  ⟨rfl, rfl, rfl, rfl, rfl, rfl⟩

/-- A call answered `Fail` adds nothing to the histories. -/
theorem PortFails.sameProgress (h : PortFails s t) : SameProgress s t := by
  cases h with
  | pull r rest => exact ⟨rfl, rfl, rfl, rfl, List.append_nil _, rfl⟩
  | push v r rest => exact ⟨rfl, rfl, rfl, rfl, rfl, List.append_nil _⟩

theorem exec_failed_sameProgress (h : exec i s = .next t) (hrun : s.runState = .running)
    (hfail : t.runState = .failed) : SameProgress s t := by
  rcases exec_failed h hrun hfail with ⟨e, -, rfl⟩ | hport
  · exact raise_sameProgress s e
  · exact hport.sameProgress

/-- The snapshot of the fetch is no part of the progress of a run. -/
theorem step_failed_sameProgress (h : step s = .next t) (hfail : t.runState = .failed) : SameProgress s t := by
  obtain ⟨hrun, ⟨-, -, rfl⟩ | ⟨-, -, sub, -, rfl⟩ | ⟨-, -, i, -, hexec⟩ | ⟨c, -, hcont⟩⟩ := step_next h
  · simp at hfail
  · exact raise_sameProgress (s.snapshot s.pc s.fetchWord) _
  · exact exec_failed_sameProgress (s := s.snapshot s.pc s.fetchWord) hexec hrun hfail
  · exact (continueCall_failed hcont hrun hfail).sameProgress

theorem recordOf_kind_ne_none (e : Failure) : (recordOf e).kind ≠ .none := by
  cases e <;> simp [recordOf]

/-- In Failed the invariant says what the snapshot and the record are of. -/
theorem State.Inv.failed_names_instruction (h : s.Inv) (hfail : s.runState = .failed) :
    s.diag = { valid := true, addr := s.pc, word := s.fetchWord } ∧ s.err.kind ≠ .none := by
  obtain ⟨-, hdiag, e, herr, -⟩ := h.recordTruthful hfail
  exact ⟨hdiag, herr ▸ recordOf_kind_ne_none e⟩

end Sys2Proof.Machine

namespace Sys2Proof

open Machine

/-- Settles O36: the invariant holds after the step and names the instruction at `pc`, which the failing step has not changed. -/
theorem failedCycleIsPrecise : Obligations.FailedCycleIsPrecise := by
  intro s t hinv hstep hfail
  have hsame := step_failed_sameProgress hstep hfail
  obtain ⟨hdiag, hkind⟩ := (step_inv hinv hstep).failed_names_instruction hfail
  rw [hsame.fetchWord_eq] at hdiag
  obtain ⟨hmem, hlen, hpc, hcause, hpulled, hpushed⟩ := hsame
  exact ⟨hmem, hlen, hpc, hcause, hpulled, hpushed, hpc ▸ hdiag, hkind⟩

end Sys2Proof
end

section
/-! PROOFS. The offending address of an Addressing failure (60_exceptions.md R141, R143), role by role. That the value is outside
Memory is `ResolutionFails.truthful`; here is which parameter it belongs to and where it came from. -/

namespace Sys2Proof.Machine

variable {s t : State} {i : Instr} {k : Nat} {e : Failure}

/-- The address `v` of parameter `k` of `i` is one that the role is about. -/
def OffendingAddress (i : Instr) (s : State) : AddressRole → (k : Nat) → (v : Word) → Prop
  | .operandFetch, k, _ => s.pc + 1 + k = s.len
  | .readDeref, k, v => i.params[k]? = some .read ∧ modeOf i.modes k = .position ∧ v = s.paramWord k
  | .writeDest, k, v => i.params[k]? = some .write ∧ v = s.paramWord k
  | .jumpTarget, k, v => k = 1 ∧ ReadsAs s i.modes 1 v ∧ ∃ a, ReadsAs s i.modes 0 a ∧ jumpTaken i a = true

/-- The failure is an Addressing failure of a parameter of `i`, by an address its role is about. -/
def Failure.namesAddress (i : Instr) (s : State) : Failure → Prop
  | .addressing _ role k v => k < i.params.length ∧ OffendingAddress i s role k v
  | .decode _ _ => False
  | .inputPort _ => False
  | .outputPort _ _ => False

theorem jumpTaken_iff {a : Word} : jumpTaken i a = true ↔
    (i = .jumpIfTrue i.modes ∧ a.toInt ≠ 0) ∨ (i = .jumpIfFalse i.modes ∧ a.toInt = 0) := by
  cases i with
  | jumpIfTrue modes => simp [jumpTaken, Instr.modes, condTrue_iff]
  | jumpIfFalse modes => simp [jumpTaken, Instr.modes, condFalse_iff]
  | _ => simp [jumpTaken]

/-- Where the cells before that of parameter `k` exist and its own does not, it is the cell LEN. -/
theorem paramAddr_eq_len_of_absent (hbefore : s.pc + k < s.len) (habsent : ¬ s.paramPresent k) :
    s.pc + 1 + k = s.len := by
  unfold State.paramPresent at habsent
  omega

theorem ReadFails.namesAddress (h : ReadFails s i.modes k e) (hk : i.params[k]? = some .read)
    (hbefore : s.pc + k < s.len) : e.namesAddress i s := by
  obtain ⟨hlt, -⟩ := List.getElem?_eq_some_iff.1 hk
  rcases h with ⟨habsent, rfl⟩ | ⟨-, hmode, -, rfl⟩ | ⟨-, hmode, -, rfl⟩
  · exact ⟨hlt, paramAddr_eq_len_of_absent hbefore habsent⟩
  · exact ⟨hlt, hk, hmode, rfl⟩
  · exact ⟨hlt, hk, hmode, rfl⟩

theorem WriteFails.namesAddress (h : WriteFails s k e) (hk : i.params[k]? = some .write)
    (hbefore : s.pc + k < s.len) : e.namesAddress i s := by
  obtain ⟨hlt, -⟩ := List.getElem?_eq_some_iff.1 hk
  rcases h with ⟨habsent, rfl⟩ | ⟨-, -, rfl⟩ | ⟨-, -, rfl⟩
  · exact ⟨hlt, paramAddr_eq_len_of_absent hbefore habsent⟩
  · exact ⟨hlt, hk, rfl⟩
  · exact ⟨hlt, hk, rfl⟩

theorem TargetFails.namesAddress {a b : Word} (h : TargetFails s b e) (hp : i.params = [.read, .read])
    (h0 : ReadsAs s i.modes 0 a) (h1 : ReadsAs s i.modes 1 b) (htaken : jumpTaken i a = true) : e.namesAddress i s := by
  have hlt : 1 < i.params.length := by simp [hp]
  rcases h with ⟨-, rfl⟩ | ⟨-, rfl⟩ <;> exact ⟨hlt, rfl, h1, a, h0, htaken⟩

/-- The parameters before the failing one resolved, so their cells exist. -/
theorem ResolutionFails.namesAddress (h : ResolutionFails i s e) (hpc : s.pc < s.len) : e.namesAddress i s := by
  rcases h with ⟨hp, h0⟩ | ⟨hp, ⟨a, h0⟩, h1⟩ | ⟨hp, -, ⟨b, h1⟩, h2⟩ | ⟨hp, h0⟩ | ⟨hp, ⟨a, h0, ht⟩, b, h1, h2⟩
  · exact (readParam_eq_error_iff.1 h0).namesAddress (List.head?_eq_getElem?.symm.trans hp) hpc
  · have hk : i.params[1]? = some .read := by
      rw [← List.getElem?_take_of_lt (show 1 < 2 by decide), hp]
      rfl
    exact (readParam_eq_error_iff.1 h1).namesAddress hk (paramPresent_of_readParam_ok h0)
  · exact (writeAddr_eq_error_iff.1 h2).namesAddress (by simp [hp]) (paramPresent_of_readParam_ok h1)
  · exact (writeAddr_eq_error_iff.1 h0).namesAddress (by simp [hp]) hpc
  · exact (checkTarget_eq_error_iff.1 h2).namesAddress hp (readParam_eq_ok_iff.1 h0) (readParam_eq_ok_iff.1 h1) ht

/-- Of an instruction's failures, the Addressing ones are those of resolution. -/
theorem exec_failed_addressing (h : exec i s = .next t) (hrun : s.runState = .running) (hfail : t.runState = .failed)
    (hkind : t.err.kind = .addressing) : ∃ e, ResolutionFails i s e ∧ t = s.raise e := by
  refine (exec_failed h hrun hfail).resolve_right fun hport => ?_
  rw [hport.kind_eq] at hkind
  cases hkind

end Sys2Proof.Machine

namespace Sys2Proof

open Machine

/-- Settles O34: the failure is one of resolution, so its address is outside Memory and is the one its role is about. -/
theorem addressingFailureRecordsTheAddress : Obligations.AddressingFailureRecordsTheAddress := by
  intro s t i hinv hrun hcall hf hstep hfail hkind
  rw [step_of_fetches hrun hcall hf] at hstep
  obtain ⟨e, he, rfl⟩ := exec_failed_addressing hstep hrun hfail hkind
  have htrue : e.truthful s.len s.fetchWord := he.truthful hinv.lenFits hf.1
  have hnames : e.namesAddress i s := he.namesAddress hf.1
  cases e with
  | decode sub w => exact hnames.elim
  | inputPort r => exact hnames.elim
  | outputPort v r => exact hnames.elim
  | addressing sub role k v =>
    obtain ⟨-, -, hfetch, hneg, hbig⟩ := htrue
    obtain ⟨hk, hrole⟩ := hnames
    refine ⟨rfl, rfl, hk, ?_, ?_⟩
    · cases sub with
      | negativeAddress => exact .inl ⟨rfl, hneg rfl⟩
      | outOfBounds => exact .inr ⟨rfl, hbig rfl⟩
    · cases role with
      | operandFetch =>
        obtain ⟨hsub, hv⟩ := hfetch rfl
        exact .inl ⟨rfl, congrArg subOfAddress hsub, hv, hrole⟩
      | readDeref => exact .inr (.inl ⟨rfl, hrole⟩)
      | writeDest => exact .inr (.inr (.inl ⟨rfl, hrole⟩))
      | jumpTarget =>
        obtain ⟨hone, h1, a, h0, htaken⟩ := hrole
        exact .inr (.inr (.inr ⟨rfl, hone, h1, a, h0, jumpTaken_iff.1 htaken⟩))

end Sys2Proof
end

section
/-! PROOFS. What Memory reads after the words of an image are written into it (70_reset_and_hazards.md R170), and the two hooks that
write such words: the host's placed instruction and reset with an image (log entry 3). -/

namespace Sys2Proof.Machine

variable {m : Memory} {a b k nbits w : Nat} {v : Word} {vs img : List Word} {s : State} {i : Instr}

/-- The cells before the first one written read as before. -/
theorem Memory.read_writeList_of_lt (h : b < a) (m : Memory) (vs : List Word) : (m.writeList a vs).read b = m.read b := by
  induction vs generalizing m a with
  | nil => rfl
  | cons v vs ih => exact (ih (h.trans a.lt_succ_self) _).trans (Memory.read_write_of_ne h.ne m v)

/-- The first word stands in its cell because the later words are written after it; each later word is a first word in turn. -/
theorem Memory.read_writeList (hwf : m.wf = true) (h : vs[k]? = some v) : (m.writeList a vs).read (a + k) = v := by
  induction vs generalizing m a k with
  | nil => cases h
  | cons u vs ih =>
    cases k with
    | zero =>
      obtain rfl : u = v := Option.some.inj h
      exact (Memory.read_writeList_of_lt a.lt_succ_self _ vs).trans (Memory.read_write_same hwf a u)
    | succ k =>
      rw [Nat.add_comm k, ← Nat.add_assoc]
      exact ih (Memory.write_wf hwf a u) h

theorem decodeTableWord_eq_some_iff : decodeTableWord nbits w = some i ↔ decode (tableCell nbits w 0) = .ok i := by
  rw [decodeTableWord]
  cases decode (tableCell nbits w 0) with
  | error sub => simp
  | ok j => simp

theorem State.withFetchWord_fetchWord (hwf : s.mem.wf = true) (nbits w : Nat) :
    (s.withFetchWord nbits w).fetchWord = tableCell nbits w 0 :=
  Memory.read_writeList (k := 0) hwf rfl

/-- The host's load makes Memory long enough, so the placed instruction is inside it. -/
theorem State.withFetchWord_fetches (hwf : s.mem.wf = true) (h : decodeTableWord nbits w = some i) :
    (s.withFetchWord nbits w).fetches i := by
  constructor
  · exact lt_max_of_lt_right (Nat.lt_add_of_pos_right (by decide))
  · rw [State.withFetchWord_fetchWord hwf]
    exact decodeTableWord_eq_some_iff.1 h

/-- The state that `State.load` gives for an image that is not too long. -/
def State.loaded (img : List Word) (pulls : List PullAnswer) (pushes : List PushAnswer) : State :=
  { State.reset with
    len := img.length
    mem := Memory.writeList [] 0 img
    input := { answers := pulls, pulled := [] }
    output := { answers := pushes, pushed := [] } }

theorem State.load_of_fits (h : img.length ≤ Config.maxLen) (pulls : List PullAnswer) (pushes : List PushAnswer) :
    State.load img pulls pushes = some (State.loaded img pulls pushes) :=
  if_pos h

theorem State.load_of_too_long (h : Config.maxLen < img.length) (pulls : List PullAnswer) (pushes : List PushAnswer) :
    State.load img pulls pushes = none :=
  if_neg h.not_ge

theorem State.load_eq_some_iff {pulls : List PullAnswer} {pushes : List PushAnswer} :
    State.load img pulls pushes = some s ↔ img.length ≤ Config.maxLen ∧ State.loaded img pulls pushes = s := by
  rcases le_or_gt img.length Config.maxLen with h | h
  · simp [State.load_of_fits h, h]
  · simp [State.load_of_too_long h, h]

theorem State.loaded_readCell (h : img[k]? = some v) (pulls : List PullAnswer) (pushes : List PushAnswer) :
    (State.loaded img pulls pushes).readCell k = v := by
  have hread : (Memory.writeList [] 0 img).read (0 + k) = v := Memory.read_writeList rfl h
  rwa [Nat.zero_add] at hread

/-- Memory's two clauses hold of an image written from cell 0 on; the others are those of reset. -/
theorem State.loaded_inv (h : img.length ≤ Config.maxLen) (pulls : List PullAnswer) (pushes : List PushAnswer) :
    (State.loaded img pulls pushes).Inv where
  memWf := Memory.writeList_wf rfl 0 img
  memBelow := Memory.writeList_below rfl 0 img (Nat.zero_add _).le
  lenFits := h
  pcFits := Nat.zero_le _
  causeNone := resetMeetsTheInvariant.causeNone
  recordEmpty := resetMeetsTheInvariant.recordEmpty
  recordTruthful := fun hfail => by cases hfail
  snapshotAbsent := resetMeetsTheInvariant.snapshotAbsent
  snapshotInside := fun hvalid => by cases hvalid
  callInProgress := fun _ hcall => by cases hcall

end Sys2Proof.Machine

namespace Sys2Proof

open Machine

/-- Settles O9: the placed state is Running, inside no port call, and fetches the instruction. -/
theorem placedWordIsTheOneRun : Obligations.PlacedWordIsTheOneRun := by
  intro s nbits w i hwf hi
  rw [step_of_fetches rfl rfl (State.withFetchWord_fetches hwf hi), State.withFetchWord_fetchWord hwf]
  rfl

/-- Settles O47: beside the image's cells, each element is as `State.loaded` writes it. -/
theorem loadIsResetWithTheImage : Obligations.LoadIsResetWithTheImage := by
  intro img pulls pushes
  constructor
  · intro hfits
    exact ⟨State.loaded img pulls pushes, State.load_of_fits hfits pulls pushes, rfl, rfl, rfl, rfl, rfl, rfl, rfl, rfl, rfl,
      fun _ _ hv => State.loaded_readCell hv pulls pushes⟩
  · intro hlong
    exact State.load_of_too_long hlong pulls pushes

/-- Settles O49: a load that is not refused gives the loaded state, which meets each clause. -/
theorem loadMeetsTheInvariant : Obligations.LoadMeetsTheInvariant := by
  intro img pulls pushes s hload
  obtain ⟨hfits, rfl⟩ := State.load_eq_some_iff.1 hload
  exact State.loaded_inv hfits pulls pushes

end Sys2Proof
end
